-- ==== Sys2Proof/Word.lean ====
section
/-! DEFINITION. The widths of the block's values (00_scope.md R4) and the instruction word (10_state.md R16). -/

namespace Sys2Proof

/-- A character of the text input: one 8-bit byte read as ASCII (R50). -/
abbrev Byte := BitVec 8

/-- A target address, `ADDRW = 20` bits (R4, R23). -/
abbrev Addr := BitVec 20

/-- The `programCounter` and `baseRegister` inputs, `REGW = 24` bits, unsigned (R11, R12). -/
abbrev RegWord := BitVec 24

/-- A `registerAValue`, `AW = 24` bits (R4). -/
abbrev RegA := BitVec 24

/-- `opcodeBits`, `OPW = 6` bits (R4). -/
abbrev Opcode := BitVec 6

/-- Printed text of the host presentation: a list of characters. -/
abbrev Text := List Char

/-- An instruction word: the pair (`W`, `v`) with `W` 24 or 32 and `0 ≤ v < 2^W`; no other length exists
(R16, R35). -/
inductive InstrWord where
  | w24 (v : BitVec 24)
  | w32 (v : BitVec 32)
deriving DecidableEq, Repr

/-- `bitWidth`, written `W` (R16). -/
def InstrWord.width : InstrWord → Nat
  | .w24 _ => 24
  | .w32 _ => 32

/-- The unsigned integer `v` the word denotes (R16). -/
def InstrWord.value : InstrWord → Nat
  | .w24 v => v.toNat
  | .w32 v => v.toNat

end Sys2Proof
end

