-- ==== Sys2Proof/Config.lean ====
section
/-! DEFINITION. The implementation parameters of 00_scope.md R4, which a model takes as arguments, and the free
values: opaque constants for the outputs the spec leaves unspecified (92_eei_decisions.md D12, D21). -/

namespace Sys2Proof

/-- The closed error taxonomy (R99). -/
inductive ErrorKind where
  | invalidLength
  | invalidHexDigits
deriving DecidableEq, Repr

/-- `OPMATCH`: the reading of "opcode masked with 0xFC equals 0x00" (R49, R87; D9). -/
inductive OpMatch where
  | firstByte
  | sixBit
deriving DecidableEq, Repr

/-- `SHORT_F4_POLICY`: the treatment of a 24-bit word whose e bit is 1 (R77; D10). -/
inductive ShortF4Policy where
  | refuse
  | truncate12
  | zeroFill
deriving DecidableEq, Repr

/-- The parameters of R4 that are not fixed by the source. They are arguments of the model: `State` carries
them, no step changes them, and a statement about every state is a statement about every choice of them. -/
structure Config where
  /-- `WS`: the characters trimmed as whitespace (R51). -/
  ws : List Byte
  /-- `OPMATCH`. -/
  opMatch : OpMatch
  /-- `SHORT_F4_POLICY`. -/
  shortF4Policy : ShortF4Policy
  /-- `MAXCHARS`: the line-buffer length of a hardware front-end; `none` is the model's "no limit" (R50). -/
  maxChars : Option Nat
  /-- `EXIT_CODE_ON_ERROR`: host glue only (R98). -/
  exitCodeOnError : Nat
  /-- `ADDR_UNIT`, in bits: what one target address names; used by no rule (R4). -/
  addrUnitBits : Nat
deriving DecidableEq, Repr

/-- The output ports of R20 whose value the spec leaves unspecified in some transactions. -/
inductive OutPort where
  | bits | opcodeBits | n | i | x | b | p | e | format4 | tail | addrMode | relMode | target
  | regAValid | regA | consistent
deriving DecidableEq, Repr

/-- FREE VALUE: what an unspecified output port shows in the transaction numbered `k` (R20, R88, R103;
assumption log 11). -/
opaque Config.freePort (port : OutPort) (w : Nat) (k : Nat) : BitVec w

/-- FREE VALUE: the message text the host prints for an error (R97; N17; assumption log 20). -/
opaque Config.errorMessage (kind : ErrorKind) : Text

/-- FREE VALUE: the host's exit code after a successful interaction (R98; assumption log 19). -/
opaque Config.exitCodeOnSuccess : Nat

end Sys2Proof
end

