-- ==== Sys2Proof/Syntax.lean ====
section
/-! DEFINITION. Labels of the result (R9, R17) and the instructions: one constructor per row of
spec/opcode_table.json, that is, the 32 decode classes of 30_encoding.md R46 and its two overlay rows. -/

namespace Sys2Proof

/-- `addressingMode` (R65). -/
inductive AddressingMode where
  | simple
  | indirect
  | immediate
  | invalidAddressing
deriving DecidableEq, Repr

/-- `relativeMode` (R72). -/
inductive RelativeMode where
  | pcRelative
  | baseRelative
  | direct
  | absoluteFormat4
deriving DecidableEq, Repr

/-- `format`: 3 or 4 (R62). -/
inductive Format where
  | three
  | four
deriving DecidableEq, Repr

/-- `tailBits`: the raw 12-bit displacement field or the raw 20-bit address field (R63). -/
inductive Tail where
  | disp (d : BitVec 12)
  | addr (a : BitVec 20)
deriving DecidableEq, Repr

/-- The instructions. Operands are the bits a class leaves free: `op` is `opcodeBits`, `x`, `b`, `p`, `e` are
flags, `d` is `disp`, `a` is `addr`, `z` the ignored last byte of a long Format 3 word (R40), `t` the twelve
bits of a short Format 4 word (R41) or, in an overlay row, the bits below the flags. -/
inductive Instr where
  | f3SimplePc (op : Opcode) (x b : Bool) (d : BitVec 12)
  | f3SimpleBase (op : Opcode) (x : Bool) (d : BitVec 12)
  | f3SimpleDirect (op : Opcode) (x : Bool) (d : BitVec 12)
  | f3IndirectPc (op : Opcode) (x b : Bool) (d : BitVec 12)
  | f3IndirectBase (op : Opcode) (x : Bool) (d : BitVec 12)
  | f3IndirectDirect (op : Opcode) (x : Bool) (d : BitVec 12)
  | f3ImmediatePc (op : Opcode) (x b : Bool) (d : BitVec 12)
  | f3ImmediateBase (op : Opcode) (x : Bool) (d : BitVec 12)
  | f3ImmediateDirect (op : Opcode) (x : Bool) (d : BitVec 12)
  | f3InvalidPc (op : Opcode) (x b : Bool) (d : BitVec 12)
  | f3InvalidBase (op : Opcode) (x : Bool) (d : BitVec 12)
  | f3InvalidDirect (op : Opcode) (x : Bool) (d : BitVec 12)
  | f3lSimplePc (op : Opcode) (x b : Bool) (d : BitVec 12) (z : Byte)
  | f3lSimpleBase (op : Opcode) (x : Bool) (d : BitVec 12) (z : Byte)
  | f3lSimpleDirect (op : Opcode) (x : Bool) (d : BitVec 12) (z : Byte)
  | f3lIndirectPc (op : Opcode) (x b : Bool) (d : BitVec 12) (z : Byte)
  | f3lIndirectBase (op : Opcode) (x : Bool) (d : BitVec 12) (z : Byte)
  | f3lIndirectDirect (op : Opcode) (x : Bool) (d : BitVec 12) (z : Byte)
  | f3lImmediatePc (op : Opcode) (x b : Bool) (d : BitVec 12) (z : Byte)
  | f3lImmediateBase (op : Opcode) (x : Bool) (d : BitVec 12) (z : Byte)
  | f3lImmediateDirect (op : Opcode) (x : Bool) (d : BitVec 12) (z : Byte)
  | f3lInvalidPc (op : Opcode) (x b : Bool) (d : BitVec 12) (z : Byte)
  | f3lInvalidBase (op : Opcode) (x : Bool) (d : BitVec 12) (z : Byte)
  | f3lInvalidDirect (op : Opcode) (x : Bool) (d : BitVec 12) (z : Byte)
  | f4SimpleAbs (op : Opcode) (x b p : Bool) (a : BitVec 20)
  | f4IndirectAbs (op : Opcode) (x b p : Bool) (a : BitVec 20)
  | f4ImmediateAbs (op : Opcode) (x b p : Bool) (a : BitVec 20)
  | f4InvalidAbs (op : Opcode) (x b p : Bool) (a : BitVec 20)
  | f4sSimpleAbs (op : Opcode) (x b p : Bool) (t : BitVec 12)
  | f4sIndirectAbs (op : Opcode) (x b p : Bool) (t : BitVec 12)
  | f4sImmediateAbs (op : Opcode) (x b p : Bool) (t : BitVec 12)
  | f4sInvalidAbs (op : Opcode) (x b p : Bool) (t : BitVec 12)
  | romhitW24 (x b p e : Bool) (t : BitVec 12)
  | romhitW32 (x b p e : Bool) (t : BitVec 20)
deriving DecidableEq, Repr

end Sys2Proof
end

