-- ==== Sys2Proof/WellFormed.lean ====
section
/-! DEFINITION. Which terms of `Instr` are decode classes (30_encoding.md R46). Every operand field has exactly the
width its class gives it, so the only terms that are not an instruction of their own are the overlay rows. -/

namespace Sys2Proof

/-- The rows flagged "overlay" are "not classes of their own but mark the sub-pattern of the SIMPLE classes on
which the ROM lookup is enabled" (R46). -/
def Instr.isOverlay : Instr → Bool
  | .f3SimplePc _ _ _ _ => false
  | .f3SimpleBase _ _ _ => false
  | .f3SimpleDirect _ _ _ => false
  | .f3IndirectPc _ _ _ _ => false
  | .f3IndirectBase _ _ _ => false
  | .f3IndirectDirect _ _ _ => false
  | .f3ImmediatePc _ _ _ _ => false
  | .f3ImmediateBase _ _ _ => false
  | .f3ImmediateDirect _ _ _ => false
  | .f3InvalidPc _ _ _ _ => false
  | .f3InvalidBase _ _ _ => false
  | .f3InvalidDirect _ _ _ => false
  | .f3lSimplePc _ _ _ _ _ => false
  | .f3lSimpleBase _ _ _ _ => false
  | .f3lSimpleDirect _ _ _ _ => false
  | .f3lIndirectPc _ _ _ _ _ => false
  | .f3lIndirectBase _ _ _ _ => false
  | .f3lIndirectDirect _ _ _ _ => false
  | .f3lImmediatePc _ _ _ _ _ => false
  | .f3lImmediateBase _ _ _ _ => false
  | .f3lImmediateDirect _ _ _ _ => false
  | .f3lInvalidPc _ _ _ _ _ => false
  | .f3lInvalidBase _ _ _ _ => false
  | .f3lInvalidDirect _ _ _ _ => false
  | .f4SimpleAbs _ _ _ _ _ => false
  | .f4IndirectAbs _ _ _ _ _ => false
  | .f4ImmediateAbs _ _ _ _ _ => false
  | .f4InvalidAbs _ _ _ _ _ => false
  | .f4sSimpleAbs _ _ _ _ _ => false
  | .f4sIndirectAbs _ _ _ _ _ => false
  | .f4sImmediateAbs _ _ _ _ _ => false
  | .f4sInvalidAbs _ _ _ _ _ => false
  | .romhitW24 _ _ _ _ _ => true
  | .romhitW32 _ _ _ _ _ => true

/-- A well-formed instruction is a decode class: one of the 32 that are pairwise disjoint and together cover
every word (R46). -/
def Instr.wellFormed (i : Instr) : Bool :=
  !i.isOverlay

end Sys2Proof
end

