-- ==== Sys2Proof/Decode.lean ====
section
/-! DEFINITION. From words to instructions and back: the fields of 30_encoding.md section 2, the decoder (total on
every word, R48; a delivery of another number of bytes is rejected by name), the encoder, and the match/mask rows
of spec/opcode_table.json. -/

namespace Sys2Proof

/-! ## The string view of a word -/

/-- `bits`: the word as `W` binary digits, most significant first, zero-padded on the left (R59). -/
def InstrWord.bits : InstrWord → List Bool
  | .w24 v => (List.range 24).map fun k => v.getLsbD (23 - k)
  | .w32 v => (List.range 32).map fun k => v.getLsbD (31 - k)

/-- The unsigned number a string of binary digits denotes, first digit most significant (R5). -/
def bitsValue (l : List Bool) : Nat :=
  l.foldl (fun acc c => 2 * acc + c.toNat) 0

/-- `bits[a:b]`: the half-open slice of characters `a` to `b - 1` (R5). -/
def bitsSlice (l : List Bool) (a b : Nat) : List Bool :=
  (l.drop a).take (b - a)

/-- `{w32, word}`: the word on the input ports; when `w32 = 0`, `word[31:24]` is ignored (R20). -/
def InstrWord.ofPorts (w32 : Bool) (word : BitVec 32) : InstrWord :=
  if w32 then .w32 word else .w24 (word.setWidth 24)

/-! ## Field layouts (R36 to R38, R40, R41) -/

/-- A 24-bit word: opcode, the six flags, twelve bits (R37, R41). -/
def layout24 (op : Opcode) (n i x b p e : Bool) (t : BitVec 12) : BitVec 24 :=
  op ++ BitVec.ofBool n ++ BitVec.ofBool i ++ BitVec.ofBool x ++ BitVec.ofBool b ++ BitVec.ofBool p ++
    BitVec.ofBool e ++ t

/-- A 32-bit word: opcode, the six flags, twenty bits (R38, R40). -/
def layout32 (op : Opcode) (n i x b p e : Bool) (t : BitVec 20) : BitVec 32 :=
  op ++ BitVec.ofBool n ++ BitVec.ofBool i ++ BitVec.ofBool x ++ BitVec.ofBool b ++ BitVec.ofBool p ++
    BitVec.ofBool e ++ t

/-- The twenty bits below the flags of a long Format 3 word: `disp`, then the ignored byte (R40). -/
def longTail (d : BitVec 12) (z : Byte) : BitVec 20 :=
  d ++ z

/-! ## Decoding -/

/-- The class of a short Format 3 word (`W = 24`, `e = 0`), by (n, i) and then by the priority `p`, `b` (R46, R47). -/
def format3Class (op : Opcode) (n i x b p : Bool) (d : BitVec 12) : Instr :=
  match n, i, p, b with
  | true, true, true, b => .f3SimplePc op x b d
  | true, true, false, true => .f3SimpleBase op x d
  | true, true, false, false => .f3SimpleDirect op x d
  | true, false, true, b => .f3IndirectPc op x b d
  | true, false, false, true => .f3IndirectBase op x d
  | true, false, false, false => .f3IndirectDirect op x d
  | false, true, true, b => .f3ImmediatePc op x b d
  | false, true, false, true => .f3ImmediateBase op x d
  | false, true, false, false => .f3ImmediateDirect op x d
  | false, false, true, b => .f3InvalidPc op x b d
  | false, false, false, true => .f3InvalidBase op x d
  | false, false, false, false => .f3InvalidDirect op x d

/-- The class of a long Format 3 word (`W = 32`, `e = 0`; R40, R46, R47). -/
def longFormat3Class (op : Opcode) (n i x b p : Bool) (d : BitVec 12) (z : Byte) : Instr :=
  match n, i, p, b with
  | true, true, true, b => .f3lSimplePc op x b d z
  | true, true, false, true => .f3lSimpleBase op x d z
  | true, true, false, false => .f3lSimpleDirect op x d z
  | true, false, true, b => .f3lIndirectPc op x b d z
  | true, false, false, true => .f3lIndirectBase op x d z
  | true, false, false, false => .f3lIndirectDirect op x d z
  | false, true, true, b => .f3lImmediatePc op x b d z
  | false, true, false, true => .f3lImmediateBase op x d z
  | false, true, false, false => .f3lImmediateDirect op x d z
  | false, false, true, b => .f3lInvalidPc op x b d z
  | false, false, false, true => .f3lInvalidBase op x d z
  | false, false, false, false => .f3lInvalidDirect op x d z

/-- The class of a Format 4 word (`W = 32`, `e = 1`; R46). -/
def format4Class (op : Opcode) (n i x b p : Bool) (a : BitVec 20) : Instr :=
  match n, i with
  | true, true => .f4SimpleAbs op x b p a
  | true, false => .f4IndirectAbs op x b p a
  | false, true => .f4ImmediateAbs op x b p a
  | false, false => .f4InvalidAbs op x b p a

/-- The class of a short Format 4 word (`W = 24`, `e = 1`; R41, R46). -/
def shortFormat4Class (op : Opcode) (n i x b p : Bool) (t : BitVec 12) : Instr :=
  match n, i with
  | true, true => .f4sSimpleAbs op x b p t
  | true, false => .f4sIndirectAbs op x b p t
  | false, true => .f4sImmediateAbs op x b p t
  | false, false => .f4sInvalidAbs op x b p t

/-- The decoder: the class of a word, found as R47 says, with the class's operands at the positions of R36 to R41.
It is total: "no encoding is illegal" (R48). -/
def decode : InstrWord → Instr
  | .w24 v =>
    let op := v.extractLsb' 18 6
    if v.getLsbD 12 then
      shortFormat4Class op (v.getLsbD 17) (v.getLsbD 16) (v.getLsbD 15) (v.getLsbD 14) (v.getLsbD 13)
        (v.extractLsb' 0 12)
    else
      format3Class op (v.getLsbD 17) (v.getLsbD 16) (v.getLsbD 15) (v.getLsbD 14) (v.getLsbD 13)
        (v.extractLsb' 0 12)
  | .w32 v =>
    let op := v.extractLsb' 26 6
    if v.getLsbD 20 then
      format4Class op (v.getLsbD 25) (v.getLsbD 24) (v.getLsbD 23) (v.getLsbD 22) (v.getLsbD 21)
        (v.extractLsb' 0 20)
    else
      longFormat3Class op (v.getLsbD 25) (v.getLsbD 24) (v.getLsbD 23) (v.getLsbD 22) (v.getLsbD 21)
        (v.extractLsb' 8 12) (v.extractLsb' 0 8)

/-- What the decoder answers on bytes. -/
inductive ByteDecoding where
  /-- The bytes are an instruction word of this class. -/
  | instr (i : Instr)
  /-- The number of bytes is neither 3 nor 4: no such word exists (R35). -/
  | badByteCount (n : Nat)
deriving DecidableEq, Repr

/-- The word delivered as bytes, the byte at the lowest address the most significant (R27, D13). -/
def wordOfBytes3 (b0 b1 b2 : Byte) : InstrWord := .w24 (b0 ++ b1 ++ b2)

/-- As `wordOfBytes3`, for four bytes. -/
def wordOfBytes4 (b0 b1 b2 b3 : Byte) : InstrWord := .w32 (b0 ++ b1 ++ b2 ++ b3)

/-- The decoder on any bytes: three are a 24-bit word, four a 32-bit word, any other number is rejected by
name (R27, R35). -/
def decodeBytes : List Byte → ByteDecoding
  | [b0, b1, b2] => .instr (decode (wordOfBytes3 b0 b1 b2))
  | [b0, b1, b2, b3] => .instr (decode (wordOfBytes4 b0 b1 b2 b3))
  | l => .badByteCount l.length

/-- The `count` bytes of the number `w`, most significant first. -/
def bytesOf (count w : Nat) : List Byte :=
  (List.range count).map fun k => BitVec.ofNat 8 (w / 256 ^ (count - 1 - k))

/-- The instruction the decoder reads from the word whose bits are `w`, numbered as spec/opcode_table.json numbers
them: over the `W`-bit integer `v`, `W = nbits` (R46). -/
def decodeTableWord (nbits w : Nat) : Option Instr :=
  if nbits % 8 = 0 then
    match decodeBytes (bytesOf (nbits / 8) w) with
    | .instr i => some i
    | .badByteCount _ => none
  else none

/-! ## Encoding -/

/-- The word of an instruction, from the pattern strings of R46. -/
def encode : Instr → InstrWord
  | .f3SimplePc op x b d => .w24 (layout24 op true true x b true false d)
  | .f3SimpleBase op x d => .w24 (layout24 op true true x true false false d)
  | .f3SimpleDirect op x d => .w24 (layout24 op true true x false false false d)
  | .f3IndirectPc op x b d => .w24 (layout24 op true false x b true false d)
  | .f3IndirectBase op x d => .w24 (layout24 op true false x true false false d)
  | .f3IndirectDirect op x d => .w24 (layout24 op true false x false false false d)
  | .f3ImmediatePc op x b d => .w24 (layout24 op false true x b true false d)
  | .f3ImmediateBase op x d => .w24 (layout24 op false true x true false false d)
  | .f3ImmediateDirect op x d => .w24 (layout24 op false true x false false false d)
  | .f3InvalidPc op x b d => .w24 (layout24 op false false x b true false d)
  | .f3InvalidBase op x d => .w24 (layout24 op false false x true false false d)
  | .f3InvalidDirect op x d => .w24 (layout24 op false false x false false false d)
  | .f3lSimplePc op x b d z => .w32 (layout32 op true true x b true false (longTail d z))
  | .f3lSimpleBase op x d z => .w32 (layout32 op true true x true false false (longTail d z))
  | .f3lSimpleDirect op x d z => .w32 (layout32 op true true x false false false (longTail d z))
  | .f3lIndirectPc op x b d z => .w32 (layout32 op true false x b true false (longTail d z))
  | .f3lIndirectBase op x d z => .w32 (layout32 op true false x true false false (longTail d z))
  | .f3lIndirectDirect op x d z => .w32 (layout32 op true false x false false false (longTail d z))
  | .f3lImmediatePc op x b d z => .w32 (layout32 op false true x b true false (longTail d z))
  | .f3lImmediateBase op x d z => .w32 (layout32 op false true x true false false (longTail d z))
  | .f3lImmediateDirect op x d z => .w32 (layout32 op false true x false false false (longTail d z))
  | .f3lInvalidPc op x b d z => .w32 (layout32 op false false x b true false (longTail d z))
  | .f3lInvalidBase op x d z => .w32 (layout32 op false false x true false false (longTail d z))
  | .f3lInvalidDirect op x d z => .w32 (layout32 op false false x false false false (longTail d z))
  | .f4SimpleAbs op x b p a => .w32 (layout32 op true true x b p true a)
  | .f4IndirectAbs op x b p a => .w32 (layout32 op true false x b p true a)
  | .f4ImmediateAbs op x b p a => .w32 (layout32 op false true x b p true a)
  | .f4InvalidAbs op x b p a => .w32 (layout32 op false false x b p true a)
  | .f4sSimpleAbs op x b p t => .w24 (layout24 op true true x b p true t)
  | .f4sIndirectAbs op x b p t => .w24 (layout24 op true false x b p true t)
  | .f4sImmediateAbs op x b p t => .w24 (layout24 op false true x b p true t)
  | .f4sInvalidAbs op x b p t => .w24 (layout24 op false false x b p true t)
  | .romhitW24 x b p e t => .w24 (layout24 0 true true x b p e t)
  | .romhitW32 x b p e t => .w32 (layout32 0 true true x b p e t)

/-- The decode class an overlay row's word belongs to (R46: the overlay rows mark words of the SIMPLE classes);
a class is its own. -/
def Instr.toClass : Instr → Instr
  | .romhitW24 x b p e t =>
    if e then shortFormat4Class 0 true true x b p t else format3Class 0 true true x b p t
  | .romhitW32 x b p e t =>
    if e then format4Class 0 true true x b p t
    else longFormat3Class 0 true true x b p (t.extractLsb' 8 12) (t.extractLsb' 0 8)
  | i => i

/-! ## The opcode table's own rows -/

/-- One row of spec/opcode_table.json: its width and its match and mask over the `W`-bit integer `v` (R46). -/
structure TableRow where
  width : Nat
  mask : Nat
  bits : Nat
deriving DecidableEq, Repr

/-- A word belongs to a row: the widths agree, and the masked word is the row's match. -/
abbrev TableRow.Holds (r : TableRow) (w : InstrWord) : Prop :=
  w.width = r.width ∧ w.value &&& r.mask = r.bits

/-- No word belongs to both rows: the widths differ, or the matches differ at a bit that both masks fix. -/
abbrev TableRow.Disjoint (r r' : TableRow) : Prop :=
  r.width ≠ r'.width ∨ (r.bits ^^^ r'.bits) &&& (r.mask &&& r'.mask) ≠ 0

/-- The row of each instruction, its numbers copied from the table. -/
def Instr.tableRow : Instr → TableRow
  | .f3SimplePc _ _ _ _ => ⟨24, 0x033000, 0x032000⟩ -- F3.SIMPLE.PC
  | .f3SimpleBase _ _ _ => ⟨24, 0x037000, 0x034000⟩ -- F3.SIMPLE.BASE
  | .f3SimpleDirect _ _ _ => ⟨24, 0x037000, 0x030000⟩ -- F3.SIMPLE.DIRECT
  | .f3IndirectPc _ _ _ _ => ⟨24, 0x033000, 0x022000⟩ -- F3.INDIRECT.PC
  | .f3IndirectBase _ _ _ => ⟨24, 0x037000, 0x024000⟩ -- F3.INDIRECT.BASE
  | .f3IndirectDirect _ _ _ => ⟨24, 0x037000, 0x020000⟩ -- F3.INDIRECT.DIRECT
  | .f3ImmediatePc _ _ _ _ => ⟨24, 0x033000, 0x012000⟩ -- F3.IMMEDIATE.PC
  | .f3ImmediateBase _ _ _ => ⟨24, 0x037000, 0x014000⟩ -- F3.IMMEDIATE.BASE
  | .f3ImmediateDirect _ _ _ => ⟨24, 0x037000, 0x010000⟩ -- F3.IMMEDIATE.DIRECT
  | .f3InvalidPc _ _ _ _ => ⟨24, 0x033000, 0x002000⟩ -- F3.INVALID.PC
  | .f3InvalidBase _ _ _ => ⟨24, 0x037000, 0x004000⟩ -- F3.INVALID.BASE
  | .f3InvalidDirect _ _ _ => ⟨24, 0x037000, 0x000000⟩ -- F3.INVALID.DIRECT
  | .f3lSimplePc _ _ _ _ _ => ⟨32, 0x03300000, 0x03200000⟩ -- F3L.SIMPLE.PC
  | .f3lSimpleBase _ _ _ _ => ⟨32, 0x03700000, 0x03400000⟩ -- F3L.SIMPLE.BASE
  | .f3lSimpleDirect _ _ _ _ => ⟨32, 0x03700000, 0x03000000⟩ -- F3L.SIMPLE.DIRECT
  | .f3lIndirectPc _ _ _ _ _ => ⟨32, 0x03300000, 0x02200000⟩ -- F3L.INDIRECT.PC
  | .f3lIndirectBase _ _ _ _ => ⟨32, 0x03700000, 0x02400000⟩ -- F3L.INDIRECT.BASE
  | .f3lIndirectDirect _ _ _ _ => ⟨32, 0x03700000, 0x02000000⟩ -- F3L.INDIRECT.DIRECT
  | .f3lImmediatePc _ _ _ _ _ => ⟨32, 0x03300000, 0x01200000⟩ -- F3L.IMMEDIATE.PC
  | .f3lImmediateBase _ _ _ _ => ⟨32, 0x03700000, 0x01400000⟩ -- F3L.IMMEDIATE.BASE
  | .f3lImmediateDirect _ _ _ _ => ⟨32, 0x03700000, 0x01000000⟩ -- F3L.IMMEDIATE.DIRECT
  | .f3lInvalidPc _ _ _ _ _ => ⟨32, 0x03300000, 0x00200000⟩ -- F3L.INVALID.PC
  | .f3lInvalidBase _ _ _ _ => ⟨32, 0x03700000, 0x00400000⟩ -- F3L.INVALID.BASE
  | .f3lInvalidDirect _ _ _ _ => ⟨32, 0x03700000, 0x00000000⟩ -- F3L.INVALID.DIRECT
  | .f4SimpleAbs _ _ _ _ _ => ⟨32, 0x03100000, 0x03100000⟩ -- F4.SIMPLE.ABS
  | .f4IndirectAbs _ _ _ _ _ => ⟨32, 0x03100000, 0x02100000⟩ -- F4.INDIRECT.ABS
  | .f4ImmediateAbs _ _ _ _ _ => ⟨32, 0x03100000, 0x01100000⟩ -- F4.IMMEDIATE.ABS
  | .f4InvalidAbs _ _ _ _ _ => ⟨32, 0x03100000, 0x00100000⟩ -- F4.INVALID.ABS
  | .f4sSimpleAbs _ _ _ _ _ => ⟨24, 0x031000, 0x031000⟩ -- F4S.SIMPLE.ABS
  | .f4sIndirectAbs _ _ _ _ _ => ⟨24, 0x031000, 0x021000⟩ -- F4S.INDIRECT.ABS
  | .f4sImmediateAbs _ _ _ _ _ => ⟨24, 0x031000, 0x011000⟩ -- F4S.IMMEDIATE.ABS
  | .f4sInvalidAbs _ _ _ _ _ => ⟨24, 0x031000, 0x001000⟩ -- F4S.INVALID.ABS
  | .romhitW24 _ _ _ _ _ => ⟨24, 0xFF0000, 0x030000⟩ -- ROMHIT.W24
  | .romhitW32 _ _ _ _ _ => ⟨32, 0xFF000000, 0x03000000⟩ -- ROMHIT.W32

/-- The rows of the 24-bit classes, in the table's order. -/
def classRows24 : List TableRow :=
  [⟨24, 0x033000, 0x032000⟩,
   ⟨24, 0x037000, 0x034000⟩,
   ⟨24, 0x037000, 0x030000⟩,
   ⟨24, 0x033000, 0x022000⟩,
   ⟨24, 0x037000, 0x024000⟩,
   ⟨24, 0x037000, 0x020000⟩,
   ⟨24, 0x033000, 0x012000⟩,
   ⟨24, 0x037000, 0x014000⟩,
   ⟨24, 0x037000, 0x010000⟩,
   ⟨24, 0x033000, 0x002000⟩,
   ⟨24, 0x037000, 0x004000⟩,
   ⟨24, 0x037000, 0x000000⟩,
   ⟨24, 0x031000, 0x031000⟩,
   ⟨24, 0x031000, 0x021000⟩,
   ⟨24, 0x031000, 0x011000⟩,
   ⟨24, 0x031000, 0x001000⟩]

/-- The rows of the 32-bit classes, in the table's order. -/
def classRows32 : List TableRow :=
  [⟨32, 0x03300000, 0x03200000⟩,
   ⟨32, 0x03700000, 0x03400000⟩,
   ⟨32, 0x03700000, 0x03000000⟩,
   ⟨32, 0x03300000, 0x02200000⟩,
   ⟨32, 0x03700000, 0x02400000⟩,
   ⟨32, 0x03700000, 0x02000000⟩,
   ⟨32, 0x03300000, 0x01200000⟩,
   ⟨32, 0x03700000, 0x01400000⟩,
   ⟨32, 0x03700000, 0x01000000⟩,
   ⟨32, 0x03300000, 0x00200000⟩,
   ⟨32, 0x03700000, 0x00400000⟩,
   ⟨32, 0x03700000, 0x00000000⟩,
   ⟨32, 0x03100000, 0x03100000⟩,
   ⟨32, 0x03100000, 0x02100000⟩,
   ⟨32, 0x03100000, 0x01100000⟩,
   ⟨32, 0x03100000, 0x00100000⟩]

/-- The 32 class rows (R46). -/
def classRows : List TableRow :=
  classRows24 ++ classRows32

end Sys2Proof
end

