-- ==== Sys2Proof/Machine/Defaults.lean ====
section
/-! DEFINITION. The values 00_scope.md R4 gives its parameters, and the inputs a caller drives when it has none of its
own (44_host_presentation.md R92). -/

namespace Sys2Proof.Machine

/-- `WS`: space, tab, line feed, vertical tab, form feed, carriage return (R51; D4). -/
def defaultWs : List Byte :=
  [0x20#8, 0x09#8, 0x0A#8, 0x0B#8, 0x0C#8, 0x0D#8]

/-- The parameters at the values R4 gives: `OPMATCH = first_byte` (D9), `SHORT_F4_POLICY = refuse` (D10), no limit
on the line (D4); exit code 1 is what D22 suggests, and a byte is D5's informal unit (assumption log 19, 22). -/
def defaultConfig : Config where
  ws := defaultWs
  opMatch := .firstByte
  shortF4Policy := .refuse
  maxChars := none
  exitCodeOnError := 1
  addrUnitBits := 8

/-- `PC_DEFAULT` (R4, R92). -/
def defaultPc : RegWord := 0x3000#24

/-- `BASE_DEFAULT` (R4, R92). -/
def defaultBase : RegWord := 0x0000#24

end Sys2Proof.Machine
end

