-- ==== Sys2Proof/Machine/State.lean ====
section
/-! DEFINITION. What a transaction is handed and what it leaves: the inputs (10_state.md R11, R12, R16, R20), the
result record (R17) and the end of the last transaction (70_reset_and_hazards.md R122). The block itself holds no
state (R10); State holds its inputs, its outputs, its parameters, and the model's own transaction counter. -/

namespace Sys2Proof.Machine

/-- How the instruction word is presented (R116: "the text (or `w32` and `word`)"; R27 for bytes). -/
inductive Input where
  /-- `rawHexInput`: a line of text, possibly empty (R50). -/
  | text (raw : List Byte)
  /-- The ports `w32` and `word` (R20). -/
  | word (w32 : Bool) (word : BitVec 32)
  /-- Three bytes from an enclosing system, lowest address first (R27). -/
  | bytes24 (b0 b1 b2 : Byte)
  /-- Four bytes from an enclosing system, lowest address first (R27). -/
  | bytes32 (b0 b1 b2 b3 : Byte)
deriving DecidableEq, Repr

/-- The fields of a result that need no tail: opcode, flags, format and the two labels (R17). -/
structure DecodedFields where
  /-- The instruction word; its `bits` is printed and is an output (R16, R17). -/
  word : InstrWord
  opcodeBits : Opcode
  n : Bool
  i : Bool
  x : Bool
  b : Bool
  p : Bool
  e : Bool
  format : Format
  addressingMode : AddressingMode
  relativeMode : RelativeMode
deriving DecidableEq, Repr

/-- `DecodedInstruction`, the result record (R17). -/
structure DecodedInstruction extends DecodedFields where
  tailBits : Tail
  targetAddress : Addr
  /-- Optional by the spec: "present only for a specific known opcode/addressing combination". -/
  registerAValue : Option RegA
deriving DecidableEq, Repr

/-- How a transaction ended: "in exactly one of three ways" (R122). -/
inductive TxEnd where
  /-- An error of R99, with no result. -/
  | error (kind : ErrorKind)
  /-- A complete result. -/
  | complete (r : DecodedInstruction)
  /-- A short Format 4 word under `SHORT_F4_POLICY = refuse`: marked refused, with no tail, target or register-A
  value; the other fields are the source's (R41, R77; D10). -/
  | refused (f : DecodedFields)
deriving DecidableEq, Repr

/-- The machine between transactions. -/
structure State where
  /-- The parameters of R4; no step changes them. -/
  cfg : Config
  /-- The instruction input now driven. -/
  input : Input
  /-- The `programCounter` input now driven (R11). -/
  pc : RegWord
  /-- The `baseRegister` input now driven (R12). -/
  base : RegWord
  /-- The end of the last transaction. -/
  out : TxEnd
  /-- The model's own: the number of the transaction whose unspecified outputs are read (assumption log 11). -/
  freeIdx : Nat
deriving DecidableEq, Repr

/-- Why the machine stops with a fault: never. Nobody raises one: both error kinds of the spec return to the caller
as the end of a transaction (R103), and no bit pattern, address or input stops the block (R28, R48). -/
inductive Fault
deriving DecidableEq, Repr

/-- Why an instruction has no meaning. -/
inductive Refusal where
  /-- Raised by a rejected arm of `exec` only: an instruction without a meaning yet. Safe: nothing is proved of it.
  No arm of this model raises it. -/
  | notModelled (mnemonic : String)
deriving DecidableEq, Repr

/-- What a step and a meaning answer. -/
abbrev StepResult := Host.Outcome State Fault Refusal

/-- Right after reset: the defaults of R92 and R115 on `pc` and `base`, the parameters of R4, and no line typed. The
outputs after a reset "are the function of whatever the inputs then are" (R22): of the empty line, `InvalidLength`
(assumption log 3). -/
def State.reset : State where
  cfg := defaultConfig
  input := .text []
  pc := defaultPc
  base := defaultBase
  out := .error .invalidLength
  freeIdx := 0

end Sys2Proof.Machine
end

