-- ==== Sys2Proof/Machine/Flags.lean ====
section
/-! DEFINITION. What the flags select. The block has no status flags (10_state.md R19); n, i, x, b, p, e are bits of
the word, copied to the result, and `x` is read by nothing (R64). -/

namespace Sys2Proof.Machine

/-- `format`: 4 if `e = 1`, else 3; nothing else enters (R39, R62). -/
def formatOf (e : Bool) : Format :=
  if e then .four else .three

/-- `addressingMode` from (n, i) (R43, R65). -/
def addressingMode (n i : Bool) : AddressingMode :=
  match n, i with
  | true, true => .simple
  | true, false => .indirect
  | false, true => .immediate
  | false, false => .invalidAddressing

/-- `relativeMode` from (e, p, b), `p` before `b` (R44, R72, R80, R81). -/
def relativeMode (e p b : Bool) : RelativeMode :=
  if e then .absoluteFormat4
  else if p then .pcRelative
  else if b then .baseRelative
  else .direct

/-- A word whose e bit agrees with its width (R9, R40). -/
def isConsistent (w : InstrWord) (e : Bool) : Bool :=
  e == (w.width == 32)

end Sys2Proof.Machine
end

