-- ==== Sys2Proof/Machine/FrontEnd.lean ====
section
/-! DEFINITION. The text front-end (40_frontend_normalize.md R50 to R58): `normalize`, then the width and the value.
-/

namespace Sys2Proof.Machine

/-! ## Characters -/

/-- R52: `A` to `Z` become `a` to `z`; every other byte is unchanged. -/
def lowerByte (c : Byte) : Byte :=
  if 0x41 ≤ c.toNat ∧ c.toNat ≤ 0x5A then c + 0x20#8 else c

/-- One of the sixteen bytes `0` to `9`, `a` to `f` (R55). -/
def isHexDigit (c : Byte) : Bool :=
  (0x30 ≤ c.toNat && c.toNat ≤ 0x39) || (0x61 ≤ c.toNat && c.toNat ≤ 0x66)

/-- The value 0 to 15 of a hex digit (R56). -/
def digitValue (c : Byte) : Nat :=
  if c.toNat ≤ 0x39 then c.toNat - 0x30 else c.toNat - 0x57

/-- The lowercase hex digit of a value 0 to 15. -/
def hexChar (d : Nat) : Byte :=
  if d < 10 then BitVec.ofNat 8 (0x30 + d) else BitVec.ofNat 8 (0x57 + d)

/-! ## The steps of `normalize` -/

/-- R51: the longest leading and the longest trailing run of whitespace removed. -/
def trim (ws : List Byte) (t : List Byte) : List Byte :=
  ((t.dropWhile ws.contains).reverse.dropWhile ws.contains).reverse

/-- R53: one leading `0x` removed, at most once. -/
def stripHexMark : List Byte → List Byte
  | a :: b :: rest => if a = 0x30#8 ∧ b = 0x78#8 then rest else a :: b :: rest
  | t => t

/-- Steps 1 to 3: trim, lowercase, strip (R51 to R53). -/
def cleaned (ws : List Byte) (raw : List Byte) : List Byte :=
  stripHexMark ((trim ws raw).map lowerByte)

/-- A line that a hardware buffer of `MAXCHARS` characters does not hold (R50). -/
def tooLong (cfg : Config) (raw : List Byte) : Bool :=
  match cfg.maxChars with
  | none => false
  | some m => decide (m < raw.length)

/-- What `normalize` answers: `hexDigits`, or one of the two errors. -/
inductive Normalized where
  | error (kind : ErrorKind)
  | digits (hexDigits : List Byte)
deriving DecidableEq, Repr

/-- `normalize(rawHexInput)`: the length check, then the digit check, on the cleaned text (R54, R55, R57; the order
of the two checks is R102). -/
def normalize (cfg : Config) (raw : List Byte) : Normalized :=
  let t := cleaned cfg.ws raw
  if tooLong cfg raw ∨ (t.length ≠ 6 ∧ t.length ≠ 8) then .error .invalidLength
  else if t.all isHexDigit then .digits t
  else .error .invalidHexDigits

/-! ## Width and value -/

/-- The number a hex text denotes, first digit most significant (R27, R56). -/
def hexValue (t : List Byte) : Nat :=
  t.foldl (fun acc c => 16 * acc + digitValue c) 0

/-- R56: 24 bits from six digits, 32 from eight. -/
def parseHex (hexDigits : List Byte) : InstrWord :=
  if hexDigits.length = 8 then .w32 (BitVec.ofNat 32 (hexValue hexDigits))
  else .w24 (BitVec.ofNat 24 (hexValue hexDigits))

/-- The text of `count` lowercase hex digits of a number. -/
def hexText (count v : Nat) : List Byte :=
  (List.range count).map fun k => hexChar (v / 16 ^ (count - 1 - k) % 16)

/-- `hexDigits`: the word as "normalized hexadecimal text (lowercase, no `0x`)" of 6 or 8 digits (R16). -/
def hexDigits (w : InstrWord) : List Byte :=
  hexText (w.width / 4) w.value

/-! ## The front-end on every form of input -/

/-- What the front-end hands on: a word, or an error. -/
inductive Framed where
  | error (kind : ErrorKind)
  | word (w : InstrWord)
deriving DecidableEq, Repr

/-- `normalize_and_parse` (R57). -/
def frameText (cfg : Config) (raw : List Byte) : Framed :=
  match normalize cfg raw with
  | .error k => .error k
  | .digits h => .word (parseHex h)

/-- The front-end: text through `normalize` (R57); the ports and delivered bytes as they stand (R20, R27). -/
def frontEnd (cfg : Config) : Input → Framed
  | .text raw => frameText cfg raw
  | .word w32 word => .word (InstrWord.ofPorts w32 word)
  | .bytes24 b0 b1 b2 => .word (wordOfBytes3 b0 b1 b2)
  | .bytes32 b0 b1 b2 b3 => .word (wordOfBytes4 b0 b1 b2 b3)

end Sys2Proof.Machine
end

