-- ==== Sys2Proof/Machine/Operands.lean ====
section
/-! DEFINITION. The operand forms: the signed displacement and the four ways to a target address
(42_target_resolver.md R71 to R78). -/

namespace Sys2Proof.Machine

/-- `signedDisp`: two's-complement sign extension over 12 bits (R71). -/
def signedDisp (d : BitVec 12) : Int :=
  if d.getLsbD 11 then (d.toNat : Int) - 4096 else (d.toNat : Int)

/-- An integer reduced modulo 2^20 (R6, R78). -/
def toAddr (x : Int) : Addr :=
  BitVec.ofInt 20 x

/-- R73: `(pc + signedDisp) mod 2^20`; no instruction length is added (R120). -/
def pcRelative (pc : RegWord) (d : BitVec 12) : Addr :=
  toAddr (pc.toNat + signedDisp d)

/-- R74: `(base + signedDisp) mod 2^20`; the displacement is signed here too. -/
def baseRelative (base : RegWord) (d : BitVec 12) : Addr :=
  toAddr (base.toNat + signedDisp d)

/-- R75: `signedDisp mod 2^20`. -/
def directTarget (d : BitVec 12) : Addr :=
  toAddr (signedDisp d)

/-- The Format 3 branch of R84: `p`, then `b`, then neither. -/
def resolveFormat3 (b p : Bool) (d : BitVec 12) (s : State) : Addr :=
  if p then pcRelative s.pc d
  else if b then baseRelative s.base d
  else directTarget d

/-- R77, `truncate12`: `zext_20(v[11:0])`. -/
def truncatedTarget (t : BitVec 12) : Addr :=
  t.setWidth 20

/-- R77, `zero_fill`: `addr = {v[11:0], 0x00}`. -/
def zeroFilledTarget (t : BitVec 12) : Addr :=
  t ++ 0x00#8

end Sys2Proof.Machine
end

