-- ==== Sys2Proof/Machine/Rom.lean ====
section
/-! DEFINITION. The opcode ROM (43_opcode_rom.md). -/

namespace Sys2Proof.Machine

/-- The one key of the ROM (R85). -/
def romKey : Addr := 0x03600#20

/-- The one datum of the ROM (R85). -/
def romData : RegA := 0x103000#24

/-- `ROM[k]` (R86). -/
def romLookup (k : Addr) : Option RegA :=
  if k = romKey then some romData else none

/-- The number compared in step 10 of the source: the first byte of the word, or the 6-bit opcode (R49). -/
def opcodeByte (m : OpMatch) (op : Opcode) (n i : Bool) : BitVec 8 :=
  match m with
  | .firstByte => op ++ BitVec.ofBool n ++ BitVec.ofBool i
  | .sixBit => op.setWidth 8

/-- `romEnable` (R87): the opcode masked with 0xFC is 0x00, and n = i = 1. -/
def romEnable (m : OpMatch) (op : Opcode) (n i : Bool) : Bool :=
  (opcodeByte m op n i &&& 0xFC#8 == 0x00#8) && n && i

/-- `registerAValue` (R88): "lookup, not computed". -/
def registerAValue (m : OpMatch) (op : Opcode) (n i : Bool) (target : Addr) : Option RegA :=
  if romEnable m op n i then romLookup target else none

end Sys2Proof.Machine
end

