-- ==== Sys2Proof/Machine/Ops.lean ====
section
/-! DEFINITION. The shared operations: how a transaction ends, and the four shapes of word. The block has no register
file and no memory to operate on (10_state.md R14, 20_memory.md R26). -/

namespace Sys2Proof.Machine

/-! ## Ending a transaction -/

/-- A transaction ends: its end is what the outputs show, nothing else persists (R122), and the model numbers the
next one. -/
def State.endWith (s : State) (o : TxEnd) : State :=
  { s with out := o, freeIdx := s.freeIdx + 1 }

/-- Taking an error (R103): "immediate return to the caller with the error kind": no record, no state saved, no mode
or vector. The one exception of this hardware; it has no return (R107). -/
def raiseError (k : ErrorKind) (s : State) : StepResult :=
  .next (s.endWith (.error k))

/-- The extractor's fields (R60 to R65) and the label of R72, for a word with these bits. -/
def fieldsOf (w : InstrWord) (op : Opcode) (n i x b p e : Bool) : DecodedFields where
  word := w
  opcodeBits := op
  n := n
  i := i
  x := x
  b := b
  p := p
  e := e
  format := formatOf e
  addressingMode := addressingMode n i
  relativeMode := relativeMode e p b

/-- A complete result: the fields, the raw tail, the target, and the ROM's answer for it (R17, R88). -/
def complete (f : DecodedFields) (tail : Tail) (target : Addr) (s : State) : StepResult :=
  .next (s.endWith (.complete
    { toDecodedFields := f
      tailBits := tail
      targetAddress := target
      registerAValue := registerAValue s.cfg.opMatch f.opcodeBits f.n f.i target }))

/-! ## The shapes of word (R46) -/

/-- `F3`: a 24-bit word with `e = 0` (R37). -/
def format3 (op : Opcode) (n i x b p : Bool) (d : BitVec 12) (target : Addr) (s : State) : StepResult :=
  complete (fieldsOf (.w24 (layout24 op n i x b p false d)) op n i x b p false) (.disp d) target s

/-- `F3L`: a 32-bit word with `e = 0`; the byte `z` reaches `bits` only (R40). -/
def longFormat3 (op : Opcode) (n i x b p : Bool) (d : BitVec 12) (z : Byte) (target : Addr) (s : State) :
    StepResult :=
  complete (fieldsOf (.w32 (layout32 op n i x b p false (longTail d z))) op n i x b p false) (.disp d) target s

/-- `F4`: a 32-bit word with `e = 1`; `addr` is the target as it stands (R38, R76). -/
def format4 (op : Opcode) (n i x b p : Bool) (a : BitVec 20) (s : State) : StepResult :=
  complete (fieldsOf (.w32 (layout32 op n i x b p true a)) op n i x b p true) (.addr a) a s

/-- `F4S`: a 24-bit word with `e = 1` (R41), by `SHORT_F4_POLICY` (R77). Under `refuse` the transaction is marked
refused and has no tail, target or register-A value. -/
def shortFormat4 (op : Opcode) (n i x b p : Bool) (t : BitVec 12) (s : State) : StepResult :=
  let f := fieldsOf (.w24 (layout24 op n i x b p true t)) op n i x b p true
  match s.cfg.shortF4Policy with
  | .refuse => .next (s.endWith (.refused f))
  | .truncate12 => complete f (.disp t) (truncatedTarget t) s
  | .zeroFill => complete f (.addr (zeroFilledTarget t)) (zeroFilledTarget t) s

end Sys2Proof.Machine
end

