-- ==== Sys2Proof/Machine/Format3.lean ====
section
/-! DEFINITION. The twelve F3 classes: short Format 3 words (30_encoding.md R37, R46). -/

namespace Sys2Proof.Machine

/-- `F3.SIMPLE.PC` (R73, label R66). -/
def execF3SimplePc (op : Opcode) (x b : Bool) (d : BitVec 12) (s : State) : StepResult :=
  format3 op true true x b true d (pcRelative s.pc d) s

/-- `F3.SIMPLE.BASE` (R74, label R66). -/
def execF3SimpleBase (op : Opcode) (x : Bool) (d : BitVec 12) (s : State) : StepResult :=
  format3 op true true x true false d (baseRelative s.base d) s

/-- `F3.SIMPLE.DIRECT` (R75, label R66). -/
def execF3SimpleDirect (op : Opcode) (x : Bool) (d : BitVec 12) (s : State) : StepResult :=
  format3 op true true x false false d (directTarget d) s

/-- `F3.INDIRECT.PC` (R73, label R67). -/
def execF3IndirectPc (op : Opcode) (x b : Bool) (d : BitVec 12) (s : State) : StepResult :=
  format3 op true false x b true d (pcRelative s.pc d) s

/-- `F3.INDIRECT.BASE` (R74, label R67). -/
def execF3IndirectBase (op : Opcode) (x : Bool) (d : BitVec 12) (s : State) : StepResult :=
  format3 op true false x true false d (baseRelative s.base d) s

/-- `F3.INDIRECT.DIRECT` (R75, label R67). -/
def execF3IndirectDirect (op : Opcode) (x : Bool) (d : BitVec 12) (s : State) : StepResult :=
  format3 op true false x false false d (directTarget d) s

/-- `F3.IMMEDIATE.PC` (R73, label R68). -/
def execF3ImmediatePc (op : Opcode) (x b : Bool) (d : BitVec 12) (s : State) : StepResult :=
  format3 op false true x b true d (pcRelative s.pc d) s

/-- `F3.IMMEDIATE.BASE` (R74, label R68). -/
def execF3ImmediateBase (op : Opcode) (x : Bool) (d : BitVec 12) (s : State) : StepResult :=
  format3 op false true x true false d (baseRelative s.base d) s

/-- `F3.IMMEDIATE.DIRECT` (R75, label R68). -/
def execF3ImmediateDirect (op : Opcode) (x : Bool) (d : BitVec 12) (s : State) : StepResult :=
  format3 op false true x false false d (directTarget d) s

/-- `F3.INVALID.PC` (R73, label R69). -/
def execF3InvalidPc (op : Opcode) (x b : Bool) (d : BitVec 12) (s : State) : StepResult :=
  format3 op false false x b true d (pcRelative s.pc d) s

/-- `F3.INVALID.BASE` (R74, label R69). -/
def execF3InvalidBase (op : Opcode) (x : Bool) (d : BitVec 12) (s : State) : StepResult :=
  format3 op false false x true false d (baseRelative s.base d) s

/-- `F3.INVALID.DIRECT` (R75, label R69). -/
def execF3InvalidDirect (op : Opcode) (x : Bool) (d : BitVec 12) (s : State) : StepResult :=
  format3 op false false x false false d (directTarget d) s

end Sys2Proof.Machine
end

