-- ==== Sys2Proof/Machine/Format3Long.lean ====
section
/-! DEFINITION. The twelve F3L classes: long Format 3 words, whose last byte is ignored (30_encoding.md R40, R46). -/

namespace Sys2Proof.Machine

/-- `F3L.SIMPLE.PC` (R73, label R66). -/
def execF3lSimplePc (op : Opcode) (x b : Bool) (d : BitVec 12) (z : Byte) (s : State) : StepResult :=
  longFormat3 op true true x b true d z (pcRelative s.pc d) s

/-- `F3L.SIMPLE.BASE` (R74, label R66). -/
def execF3lSimpleBase (op : Opcode) (x : Bool) (d : BitVec 12) (z : Byte) (s : State) : StepResult :=
  longFormat3 op true true x true false d z (baseRelative s.base d) s

/-- `F3L.SIMPLE.DIRECT` (R75, label R66). -/
def execF3lSimpleDirect (op : Opcode) (x : Bool) (d : BitVec 12) (z : Byte) (s : State) : StepResult :=
  longFormat3 op true true x false false d z (directTarget d) s

/-- `F3L.INDIRECT.PC` (R73, label R67). -/
def execF3lIndirectPc (op : Opcode) (x b : Bool) (d : BitVec 12) (z : Byte) (s : State) : StepResult :=
  longFormat3 op true false x b true d z (pcRelative s.pc d) s

/-- `F3L.INDIRECT.BASE` (R74, label R67). -/
def execF3lIndirectBase (op : Opcode) (x : Bool) (d : BitVec 12) (z : Byte) (s : State) : StepResult :=
  longFormat3 op true false x true false d z (baseRelative s.base d) s

/-- `F3L.INDIRECT.DIRECT` (R75, label R67). -/
def execF3lIndirectDirect (op : Opcode) (x : Bool) (d : BitVec 12) (z : Byte) (s : State) : StepResult :=
  longFormat3 op true false x false false d z (directTarget d) s

/-- `F3L.IMMEDIATE.PC` (R73, label R68). -/
def execF3lImmediatePc (op : Opcode) (x b : Bool) (d : BitVec 12) (z : Byte) (s : State) : StepResult :=
  longFormat3 op false true x b true d z (pcRelative s.pc d) s

/-- `F3L.IMMEDIATE.BASE` (R74, label R68). -/
def execF3lImmediateBase (op : Opcode) (x : Bool) (d : BitVec 12) (z : Byte) (s : State) : StepResult :=
  longFormat3 op false true x true false d z (baseRelative s.base d) s

/-- `F3L.IMMEDIATE.DIRECT` (R75, label R68). -/
def execF3lImmediateDirect (op : Opcode) (x : Bool) (d : BitVec 12) (z : Byte) (s : State) : StepResult :=
  longFormat3 op false true x false false d z (directTarget d) s

/-- `F3L.INVALID.PC` (R73, label R69). -/
def execF3lInvalidPc (op : Opcode) (x b : Bool) (d : BitVec 12) (z : Byte) (s : State) : StepResult :=
  longFormat3 op false false x b true d z (pcRelative s.pc d) s

/-- `F3L.INVALID.BASE` (R74, label R69). -/
def execF3lInvalidBase (op : Opcode) (x : Bool) (d : BitVec 12) (z : Byte) (s : State) : StepResult :=
  longFormat3 op false false x true false d z (baseRelative s.base d) s

/-- `F3L.INVALID.DIRECT` (R75, label R69). -/
def execF3lInvalidDirect (op : Opcode) (x : Bool) (d : BitVec 12) (z : Byte) (s : State) : StepResult :=
  longFormat3 op false false x false false d z (directTarget d) s

end Sys2Proof.Machine
end

