-- ==== Sys2Proof/Machine/Format4.lean ====
section
/-! DEFINITION. The four F4 classes: Format 4 words (30_encoding.md R38, R46). -/

namespace Sys2Proof.Machine

/-- `F4.SIMPLE.ABS` (R76, label R66). -/
def execF4SimpleAbs (op : Opcode) (x b p : Bool) (a : BitVec 20) (s : State) : StepResult :=
  format4 op true true x b p a s

/-- `F4.INDIRECT.ABS` (R76, label R67). -/
def execF4IndirectAbs (op : Opcode) (x b p : Bool) (a : BitVec 20) (s : State) : StepResult :=
  format4 op true false x b p a s

/-- `F4.IMMEDIATE.ABS` (R76, label R68). -/
def execF4ImmediateAbs (op : Opcode) (x b p : Bool) (a : BitVec 20) (s : State) : StepResult :=
  format4 op false true x b p a s

/-- `F4.INVALID.ABS` (R76, label R69). -/
def execF4InvalidAbs (op : Opcode) (x b p : Bool) (a : BitVec 20) (s : State) : StepResult :=
  format4 op false false x b p a s

end Sys2Proof.Machine
end

