-- ==== Sys2Proof/Machine/RomOverlay.lean ====
section
/-! DEFINITION. The two overlay rows of the table: the words of the SIMPLE classes with opcode 000000, on which the
opcode ROM is enabled (30_encoding.md R46, 43_opcode_rom.md R87, R88). "registerAValue = 0x103000 iff additionally
targetAddress = 0x03600"; everything else is as in the class the word belongs to. -/

namespace Sys2Proof.Machine

/-- `ROMHIT.W24` (R88, R89): with `e = 0` the Format 3 word resolved by R84, with `e = 1` the short Format 4 word of
R77, whose lookup has no defined key unless the policy gives one. -/
def execRomhitW24 (x b p e : Bool) (t : BitVec 12) (s : State) : StepResult :=
  if e then shortFormat4 0 true true x b p t s
  else format3 0 true true x b p t (resolveFormat3 b p t s) s

/-- `ROMHIT.W32` (R88, R89): "the lookup runs in Format 4 as well", and in a long Format 3 word. -/
def execRomhitW32 (x b p e : Bool) (t : BitVec 20) (s : State) : StepResult :=
  if e then format4 0 true true x b p t s
  else longFormat3 0 true true x b p (t.extractLsb' 8 12) (t.extractLsb' 0 8)
    (resolveFormat3 b p (t.extractLsb' 8 12) s) s

end Sys2Proof.Machine
end

