-- ==== Sys2Proof/Machine/ShortFormat4.lean ====
section
/-! DEFINITION. The four F4S classes: 24-bit words whose e bit is 1 (30_encoding.md R41, R46). -/

namespace Sys2Proof.Machine

/-- `F4S.SIMPLE.ABS` (R77, label R66). -/
def execF4sSimpleAbs (op : Opcode) (x b p : Bool) (t : BitVec 12) (s : State) : StepResult :=
  shortFormat4 op true true x b p t s

/-- `F4S.INDIRECT.ABS` (R77, label R67). -/
def execF4sIndirectAbs (op : Opcode) (x b p : Bool) (t : BitVec 12) (s : State) : StepResult :=
  shortFormat4 op true false x b p t s

/-- `F4S.IMMEDIATE.ABS` (R77, label R68). -/
def execF4sImmediateAbs (op : Opcode) (x b p : Bool) (t : BitVec 12) (s : State) : StepResult :=
  shortFormat4 op false true x b p t s

/-- `F4S.INVALID.ABS` (R77, label R69). -/
def execF4sInvalidAbs (op : Opcode) (x b p : Bool) (t : BitVec 12) (s : State) : StepResult :=
  shortFormat4 op false false x b p t s

end Sys2Proof.Machine
end

