-- ==== Sys2Proof/Machine/Dispatch.lean ====
section
/-! DEFINITION. One arm per instruction. -/

namespace Sys2Proof.Machine

def exec (i : Instr) (s : State) : Host.Outcome State Fault Refusal :=
  match i with
  | .f3SimplePc op x b d => Sys2Proof.Machine.execF3SimplePc op x b d s
  | .f3SimpleBase op x d => Sys2Proof.Machine.execF3SimpleBase op x d s
  | .f3SimpleDirect op x d => Sys2Proof.Machine.execF3SimpleDirect op x d s
  | .f3IndirectPc op x b d => Sys2Proof.Machine.execF3IndirectPc op x b d s
  | .f3IndirectBase op x d => Sys2Proof.Machine.execF3IndirectBase op x d s
  | .f3IndirectDirect op x d => Sys2Proof.Machine.execF3IndirectDirect op x d s
  | .f3ImmediatePc op x b d => Sys2Proof.Machine.execF3ImmediatePc op x b d s
  | .f3ImmediateBase op x d => Sys2Proof.Machine.execF3ImmediateBase op x d s
  | .f3ImmediateDirect op x d => Sys2Proof.Machine.execF3ImmediateDirect op x d s
  | .f3InvalidPc op x b d => Sys2Proof.Machine.execF3InvalidPc op x b d s
  | .f3InvalidBase op x d => Sys2Proof.Machine.execF3InvalidBase op x d s
  | .f3InvalidDirect op x d => Sys2Proof.Machine.execF3InvalidDirect op x d s
  | .f3lSimplePc op x b d z => Sys2Proof.Machine.execF3lSimplePc op x b d z s
  | .f3lSimpleBase op x d z => Sys2Proof.Machine.execF3lSimpleBase op x d z s
  | .f3lSimpleDirect op x d z => Sys2Proof.Machine.execF3lSimpleDirect op x d z s
  | .f3lIndirectPc op x b d z => Sys2Proof.Machine.execF3lIndirectPc op x b d z s
  | .f3lIndirectBase op x d z => Sys2Proof.Machine.execF3lIndirectBase op x d z s
  | .f3lIndirectDirect op x d z => Sys2Proof.Machine.execF3lIndirectDirect op x d z s
  | .f3lImmediatePc op x b d z => Sys2Proof.Machine.execF3lImmediatePc op x b d z s
  | .f3lImmediateBase op x d z => Sys2Proof.Machine.execF3lImmediateBase op x d z s
  | .f3lImmediateDirect op x d z => Sys2Proof.Machine.execF3lImmediateDirect op x d z s
  | .f3lInvalidPc op x b d z => Sys2Proof.Machine.execF3lInvalidPc op x b d z s
  | .f3lInvalidBase op x d z => Sys2Proof.Machine.execF3lInvalidBase op x d z s
  | .f3lInvalidDirect op x d z => Sys2Proof.Machine.execF3lInvalidDirect op x d z s
  | .f4SimpleAbs op x b p a => Sys2Proof.Machine.execF4SimpleAbs op x b p a s
  | .f4IndirectAbs op x b p a => Sys2Proof.Machine.execF4IndirectAbs op x b p a s
  | .f4ImmediateAbs op x b p a => Sys2Proof.Machine.execF4ImmediateAbs op x b p a s
  | .f4InvalidAbs op x b p a => Sys2Proof.Machine.execF4InvalidAbs op x b p a s
  | .f4sSimpleAbs op x b p t => Sys2Proof.Machine.execF4sSimpleAbs op x b p t s
  | .f4sIndirectAbs op x b p t => Sys2Proof.Machine.execF4sIndirectAbs op x b p t s
  | .f4sImmediateAbs op x b p t => Sys2Proof.Machine.execF4sImmediateAbs op x b p t s
  | .f4sInvalidAbs op x b p t => Sys2Proof.Machine.execF4sInvalidAbs op x b p t s
  | .romhitW24 x b p e t => Sys2Proof.Machine.execRomhitW24 x b p e t s
  | .romhitW32 x b p e t => Sys2Proof.Machine.execRomhitW32 x b p e t s

end Sys2Proof.Machine
end

