-- ==== Sys2Proof/Machine/Step.lean ====
section
/-! DEFINITION. One step is one transaction (00_scope.md R7): the front-end, which may end it with an error, and then
the decoded instruction (R8, R117). -/

namespace Sys2Proof.Machine

/-- One transaction on the inputs now driven. "Normalization completes (and may fail) before any bit-field
extraction is attempted" (R117). -/
def step (s : State) : Host.Outcome State Fault Refusal :=
  match frontEnd s.cfg s.input with
  | .error k => raiseError k s
  | .word w => exec (decode w) s

/-- `s` with the instruction word of the table's bits `w` driven on the ports `w32` and `word` (R20), where the next
step takes it. For a width the block does not have, the text of its digits (R35; assumption log 23). -/
def State.withFetchWord (s : State) (nbits w : Nat) : State :=
  if nbits = 24 then { s with input := .word false (BitVec.ofNat 32 w) }
  else if nbits = 32 then { s with input := .word true (BitVec.ofNat 32 w) }
  else { s with input := .text (hexText (nbits / 4) w) }

end Sys2Proof.Machine
end

