-- ==== Sys2Proof/Machine/Ports.lean ====
section
/-! DEFINITION. The output ports of 10_state.md R20, computed from the end of the last transaction. A port the spec
leaves unspecified shows a free value (R88, R103; D12, D21; assumption log 11). -/

namespace Sys2Proof.Machine

/-- The output ports (R20). -/
structure Ports where
  bits_o : BitVec 32
  opcodeBits : BitVec 6
  n : Bool
  i : Bool
  x : Bool
  b : Bool
  p : Bool
  e : Bool
  format4 : Bool
  tail : BitVec 20
  addrMode : BitVec 2
  relMode : BitVec 2
  target : BitVec 20
  regAValid : Bool
  regA : BitVec 24
  consistent : Bool
  err : BitVec 2
  resultValid : Bool
deriving DecidableEq, Repr

/-- The `v` of a word, right-aligned in 32 bits (R20). -/
def wordPort : InstrWord → BitVec 32
  | .w24 v => v.setWidth 32
  | .w32 v => v

/-- `tailBits` right-aligned in 20 bits (R20). The upper eight bits of a 12-bit tail are 0: R20 says so for
`format4 = 0`. DESIGN CHOICE for a short Format 4 word under `truncate12`, a 12-bit tail with `format4 = 1`, where R20
gives no upper bits (unsafe; assumption log 31). -/
def tailPort : Tail → BitVec 20
  | .disp d => d.setWidth 20
  | .addr a => a

/-- `addrMode`: 3 Simple, 2 Indirect, 1 Immediate, 0 InvalidAddressing (R20; D8). -/
def addrModeCode : AddressingMode → BitVec 2
  | .simple => 3#2
  | .indirect => 2#2
  | .immediate => 1#2
  | .invalidAddressing => 0#2

/-- `relMode`: 0 Direct, 1 PC-relative, 2 Base-relative, 3 AbsoluteFormat4 (R20, R72; D8). -/
def relModeCode : RelativeMode → BitVec 2
  | .direct => 0#2
  | .pcRelative => 1#2
  | .baseRelative => 2#2
  | .absoluteFormat4 => 3#2

/-- `err`: 0 no error, 1 InvalidLength, 2 InvalidHexDigits; 3 never occurs (R104; D7). -/
def errCode : TxEnd → BitVec 2
  | .error .invalidLength => 1#2
  | .error .invalidHexDigits => 2#2
  | .complete _ => 0#2
  | .refused _ => 0#2

/-- An unspecified one-bit port in transaction `k`. -/
def freeBit (port : OutPort) (k : Nat) : Bool :=
  (Config.freePort port 1 k).getLsbD 0

/-- Every port after an error: all but `err` and `result_valid` are unspecified (R103; D21). -/
def errorPorts (o : TxEnd) (k : Nat) : Ports where
  bits_o := Config.freePort .bits 32 k
  opcodeBits := Config.freePort .opcodeBits 6 k
  n := freeBit .n k
  i := freeBit .i k
  x := freeBit .x k
  b := freeBit .b k
  p := freeBit .p k
  e := freeBit .e k
  format4 := freeBit .format4 k
  tail := Config.freePort .tail 20 k
  addrMode := Config.freePort .addrMode 2 k
  relMode := Config.freePort .relMode 2 k
  target := Config.freePort .target 20 k
  regAValid := freeBit .regAValid k
  regA := Config.freePort .regA 24 k
  consistent := freeBit .consistent k
  err := errCode o
  resultValid := false

/-- The ports of the fields every decoded word has, with `tail`, `target` and `regA` unspecified: those of a refused
short Format 4 word (R77; `result_valid` is "1 iff err = 0", R20). -/
def fieldPorts (f : DecodedFields) (k : Nat) : Ports where
  bits_o := wordPort f.word
  opcodeBits := f.opcodeBits
  n := f.n
  i := f.i
  x := f.x
  b := f.b
  p := f.p
  e := f.e
  format4 := f.format == .four
  tail := Config.freePort .tail 20 k
  addrMode := addrModeCode f.addressingMode
  relMode := relModeCode f.relativeMode
  target := Config.freePort .target 20 k
  regAValid := freeBit .regAValid k
  regA := Config.freePort .regA 24 k
  consistent := isConsistent f.word f.e
  err := 0#2
  resultValid := true

/-- The ports of a complete result; `regA` is unspecified when `regA_valid = 0` (R20, R88). -/
def resultPorts (r : DecodedInstruction) (k : Nat) : Ports :=
  { fieldPorts r.toDecodedFields k with
    tail := tailPort r.tailBits
    target := r.targetAddress
    regAValid := r.registerAValue.isSome
    regA := r.registerAValue.getD (Config.freePort .regA 24 k) }

/-- What the output ports show (R20). -/
def State.ports (s : State) : Ports :=
  match s.out with
  | .error k => errorPorts (.error k) s.freeIdx
  | .complete r => resultPorts r s.freeIdx
  | .refused f => fieldPorts f s.freeIdx

end Sys2Proof.Machine
end

