-- ==== Sys2Proof/Machine/Presentation.lean ====
section
/-! DEFINITION. The command-line host's printed items (44_host_presentation.md R93 to R97). The source fixes the items,
their order and their formats; the wording before an item, separators and line breaks are not given (N17) and are
not modelled. -/

namespace Sys2Proof.Machine

/-- One printed item. -/
inductive PrintItem where
  /-- 1: the "binary representation". -/
  | binary (digits : Text)
  /-- 2: the "opcode bits". -/
  | opcode (digits : Text)
  /-- 3: the "nixbpe bits with individual flag values": six characters, and each flag by name. -/
  | nixbpe (digits : Text) (named : List (Char × Bool))
  /-- 4: the composite description string. -/
  | description (text : Text)
  /-- 5: the tail bits under their label. -/
  | tail (label : Text) (digits : Text)
  /-- 6: the target address. -/
  | target (text : Text)
  /-- 7: the register-A value. -/
  | registerA (text : Text)
  /-- The single line of a failure. -/
  | failure (text : Text)
deriving DecidableEq, Repr

/-- A binary digit as a character. -/
def bitChar (c : Bool) : Char :=
  if c then '1' else '0'

/-- A bit field as characters, most significant first. -/
def bitText {w : Nat} (v : BitVec w) : Text :=
  (List.range w).map fun k => bitChar (v.getLsbD (w - 1 - k))

/-- An uppercase hex digit of a value 0 to 15. -/
def upperHexChar (d : Nat) : Char :=
  if d < 10 then Char.ofNat (0x30 + d) else Char.ofNat (0x37 + d)

/-- At most `n` leading zeros dropped. -/
def dropZeros : Nat → Text → Text
  | 0, t => t
  | _, [] => []
  | n + 1, c :: t => if c = '0' then dropZeros n t else c :: t

/-- The format `0x%0<least>X` of a number of at most `count` hex digits: a minimum width, never a truncation (R96;
C3). -/
def hexFormat (least count v : Nat) : Text :=
  '0' :: 'x' :: dropZeros (count - least)
    ((List.range count).map fun k => upperHexChar (v / 16 ^ (count - 1 - k) % 16))

/-- The label spellings of R94. -/
def AddressingMode.spelling : AddressingMode → Text
  | .simple => "Simple".toList
  | .indirect => "Indirect".toList
  | .immediate => "Immediate".toList
  | .invalidAddressing => "InvalidAddressing".toList

/-- The label spellings of R94. -/
def RelativeMode.spelling : RelativeMode → Text
  | .pcRelative => "PC-relative".toList
  | .baseRelative => "Base-relative".toList
  | .direct => "Direct".toList
  | .absoluteFormat4 => "AbsoluteFormat4".toList

/-- `<format>` is the digit 3 or 4 (R94). -/
def Format.digit : Format → Char
  | .three => '3'
  | .four => '4'

/-- "SIC/XE, <addressingMode>, <relativeMode>, Format <format>" (R94). -/
def descriptionText (f : DecodedFields) : Text :=
  "SIC/XE, ".toList ++ AddressingMode.spelling f.addressingMode ++ ", ".toList ++
    RelativeMode.spelling f.relativeMode ++ ", Format ".toList ++ [Format.digit f.format]

/-- "labeled `disp` for Format 3, `addr` for Format 4" (R95): the label follows `format`. -/
def tailLabel : Format → Text
  | .three => "disp".toList
  | .four => "addr".toList

/-- The raw tail as its bit string of 12 or 20 characters (R95). -/
def tailText : Tail → Text
  | .disp d => bitText d
  | .addr a => bitText a

/-- The six flags as characters and by name (R93). -/
def nixbpeItem (f : DecodedFields) : PrintItem :=
  .nixbpe ([f.n, f.i, f.x, f.b, f.p, f.e].map bitChar)
    [('n', f.n), ('i', f.i), ('x', f.x), ('b', f.b), ('p', f.p), ('e', f.e)]

/-- The items of a success, in order; the seventh only if present (R93). -/
def successItems (r : DecodedInstruction) : List PrintItem :=
  [.binary (r.word.bits.map bitChar),
   .opcode (bitText r.opcodeBits),
   nixbpeItem r.toDecodedFields,
   .description (descriptionText r.toDecodedFields),
   .tail (tailLabel r.format) (tailText r.tailBits),
   .target (hexFormat 4 5 r.targetAddress.toNat)] ++
  match r.registerAValue with
  | none => []
  | some a => [.registerA (hexFormat 6 6 a.toNat)]

/-- "에러: <message>" (R97); the message is a free value. -/
def failureText (k : ErrorKind) : Text :=
  "에러: ".toList ++ Config.errorMessage k

/-- What the host prints at the end of a transaction. For a refused word the source gives no output (R77, N8). -/
def printed : TxEnd → Option (List PrintItem)
  | .error k => some [.failure (failureText k)]
  | .complete r => some (successItems r)
  | .refused _ => none

/-- The exit code (R98): `EXIT_CODE_ON_ERROR` on a failure, unspecified on a success. -/
def exitCode (cfg : Config) : TxEnd → Option Nat
  | .error _ => some cfg.exitCodeOnError
  | .complete _ => some Config.exitCodeOnSuccess
  | .refused _ => none

end Sys2Proof.Machine
end

