-- ==== Sys2Proof/Machine/Interaction.lean ====
section
/-! DEFINITION. What a caller does with the block: it drives inputs, runs a list of transactions
(70_reset_and_hazards.md R118, R122), or is the one-shot command-line host (44_host_presentation.md R91, R92, R98). -/

namespace Sys2Proof.Machine

/-- The three arguments of one transaction (R116). -/
structure Transaction where
  input : Input
  pc : RegWord
  base : RegWord
deriving DecidableEq, Repr

/-- The caller drives the inputs of a transaction, between transactions (R118). -/
def State.drive (s : State) (t : Transaction) : State :=
  { s with input := t.input, pc := t.pc, base := t.base }

/-- "A list of independent transactions, each with the `pc` and `base` its caller chose" (R122): the ends, in order,
each transaction run from the state the one before it left. -/
def runAll : State → List Transaction → List TxEnd
  | _, [] => []
  | s, t :: ts =>
    match step (s.drive t) with
    | .next s' => s'.out :: runAll s' ts
    | .fault _ => []
    | .refused _ => []

/-- What the command-line host does. -/
inductive HostAction where
  /-- "Prompts once for a line of text" (R91); the wording is not given. -/
  | prompt
  | print (item : PrintItem)
  /-- The interaction ends (R98). -/
  | exit (code : Nat)
deriving DecidableEq, Repr

/-- The state a typed line is decoded in: `pc = 0x3000`, `base = 0x0000` (R92). -/
def lineState (cfg : Config) (line : List Byte) : State :=
  { State.reset with cfg := cfg, input := .text line }

/-- One interaction (R91 to R98): prompt, decode the line, print, end. `none` where the source gives no output: the
refused word. -/
def interaction (cfg : Config) (line : List Byte) : Option (List HostAction) :=
  match step (lineState cfg line) with
  | .next t =>
    match printed t.out, exitCode cfg t.out with
    | some items, some code => some (.prompt :: items.map .print ++ [.exit code])
    | _, _ => none
  | .fault _ => none
  | .refused _ => none

end Sys2Proof.Machine
end

