-- ==== Sys2Proof/Machine/Pipeline.lean ====
section
/-! DEFINITION. The source's algorithm, as the spec's pseudocode gives it on the integer `v` (41_field_extract.md R70,
42_target_resolver.md R84, 43_opcode_rom.md R87, R88): one function of the word and of the two inputs, with no decode
class in it. The class meanings are stated to agree with it. -/

namespace Sys2Proof.Machine

/-- `v[hi:lo]`, an inclusive slice of the integer as an unsigned number (R5). -/
def intSlice (v hi lo : Nat) : Nat :=
  v / 2 ^ lo % 2 ^ (hi + 1 - lo)

/-- `v[j]` (R5). -/
def intBit (v j : Nat) : Bool :=
  v / 2 ^ j % 2 == 1

/-- `extract(W, v)`, but for the tail (R70), and the label of R72. -/
def extractFields (w : InstrWord) : DecodedFields :=
  let W := w.width
  let v := w.value
  fieldsOf w (BitVec.ofNat 6 (intSlice v (W - 1) (W - 6)))
    (intBit v (W - 7)) (intBit v (W - 8)) (intBit v (W - 9)) (intBit v (W - 10)) (intBit v (W - 11))
    (intBit v (W - 12))

/-- Step 10 of the source on numbers: the opcode condition of R87 under each reading, then the key (R88). -/
def referenceRegisterA (m : OpMatch) (op : Nat) (n i : Bool) (target : Nat) : Option RegA :=
  let opcodeMatches : Bool :=
    match m with
    | .firstByte => op == 0
    | .sixBit => op == 0 || op == 1 || op == 2 || op == 3
  if opcodeMatches && n && i && target == 0x03600 then some 0x103000#24 else none

/-- The result for a tail and a target given as numbers. -/
def referenceResult (cfg : Config) (f : DecodedFields) (tail : Tail) (target : Nat) : TxEnd :=
  .complete
    { toDecodedFields := f
      tailBits := tail
      targetAddress := BitVec.ofNat 20 target
      registerAValue := referenceRegisterA cfg.opMatch f.opcodeBits.toNat f.n f.i target }

/-- `resolve(...)` and the lookup, on every word (R84, R88; the short Format 4 word by R77). -/
def reference (cfg : Config) (w : InstrWord) (pc base : Nat) : TxEnd :=
  let W := w.width
  let v := w.value
  let f := extractFields w
  if f.e = false then
    let disp := intSlice v (W - 13) (W - 24)
    let signed : Int := if intBit disp 11 then (disp : Int) - 4096 else (disp : Int)
    let sum : Int :=
      if f.p then (pc : Int) + signed
      else if f.b then (base : Int) + signed
      else signed
    referenceResult cfg f (.disp (BitVec.ofNat 12 disp)) (sum % 2 ^ 20).toNat
  else if W = 32 then
    referenceResult cfg f (.addr (BitVec.ofNat 20 (intSlice v 19 0))) (intSlice v 19 0)
  else
    let low := intSlice v 11 0
    match cfg.shortF4Policy with
    | .refuse => .refused f
    | .truncate12 => referenceResult cfg f (.disp (BitVec.ofNat 12 low)) low
    | .zeroFill => referenceResult cfg f (.addr (BitVec.ofNat 20 (low * 256))) (low * 256)

/-- The whole transaction: the front-end, then the algorithm (R8, R57). -/
def referenceTransaction (s : State) : TxEnd :=
  match frontEnd s.cfg s.input with
  | .error k => .error k
  | .word w => reference s.cfg w s.pc.toNat s.base.toNat

end Sys2Proof.Machine
end

