-- ==== Sys2Proof/Safety.lean ====
section
/-! DEFINITION. What the spec promises of every result (10_state.md R18), and what counts as a safe state. -/

namespace Sys2Proof.Machine

/-- The fields of a result are those of its own word (R60 to R65, R72). -/
def FieldsAgree (f : DecodedFields) : Prop :=
  f = extractFields f.word

/-- The tail has the length its word and policy give it (R17, R63; R77 for the short Format 4 word). -/
def TailAgrees (cfg : Config) (r : DecodedInstruction) : Prop :=
  match r.tailBits with
  | .disp _ => r.format = .three ∨ (r.word.width = 24 ∧ cfg.shortF4Policy = .truncate12)
  | .addr _ => r.format = .four ∧ (r.word.width = 32 ∨ cfg.shortF4Policy = .zeroFill)

/-- The invariants of every result (R18). -/
structure ResultInvariant (cfg : Config) (r : DecodedInstruction) : Prop where
  bits_length : r.word.bits.length = r.word.width
  format_three_iff : r.format = .three ↔ r.e = false
  absolute_iff : r.relativeMode = .absoluteFormat4 ↔ r.format = .four
  fields : FieldsAgree r.toDecodedFields
  tail : TailAgrees cfg r
  registerA_present : ∀ a, r.registerAValue = some a →
    romEnable cfg.opMatch r.opcodeBits r.n r.i = true ∧ r.n = true ∧ r.i = true ∧
      r.targetAddress = 0x03600#20 ∧ a = 0x103000#24

/-- A safe state: what the outputs show is an error, a result that meets R18, or the refusal of a short Format 4
word under `SHORT_F4_POLICY = refuse` (R122). -/
def State.Safe (s : State) : Prop :=
  match s.out with
  | .error _ => True
  | .complete r => ResultInvariant s.cfg r
  | .refused f => FieldsAgree f ∧ f.word.width = 24 ∧ f.e = true ∧ s.cfg.shortF4Policy = .refuse

/-- The outputs are the function of the inputs now driven (R10, R22, R113). -/
def State.Settled (s : State) : Prop :=
  s.out = referenceTransaction s

end Sys2Proof.Machine
end

