-- ==== Sys2Proof/Certificates/Slice0/Obligations.lean ====
section
/-! DEFINITION. The statements for the provers. Each docstring names the rule of spec/ it formalises. -/

namespace Sys2Proof.Machine

/-- `i` completes at `s` with the end `o`: exec answers a next state whose end is `o`, and every input and every
parameter is as before. -/
def EndsWith (i : Instr) (s : State) (o : TxEnd) : Prop :=
  ∃ t, exec i s = .next t ∧ t.out = o ∧
    t.cfg = s.cfg ∧ t.input = s.input ∧ t.pc = s.pc ∧ t.base = s.base

/-- The record of a word with `e = 0`, every field given. -/
def dispRecord (w : InstrWord) (op : Opcode) (n i x b p : Bool) (am : AddressingMode) (rm : RelativeMode)
    (d : BitVec 12) (target : Addr) (a : Option RegA) : DecodedInstruction where
  word := w
  opcodeBits := op
  n := n
  i := i
  x := x
  b := b
  p := p
  e := false
  format := .three
  addressingMode := am
  relativeMode := rm
  tailBits := .disp d
  targetAddress := target
  registerAValue := a

/-- The fields of a word with `e = 1`, every one given. -/
def absFields (w : InstrWord) (op : Opcode) (n i x b p : Bool) (am : AddressingMode) : DecodedFields where
  word := w
  opcodeBits := op
  n := n
  i := i
  x := x
  b := b
  p := p
  e := true
  format := .four
  addressingMode := am
  relativeMode := .absoluteFormat4

/-- The record of a word with `e = 1`, every field given. -/
def absRecord (f : DecodedFields) (tail : Tail) (target : Addr) (a : Option RegA) : DecodedInstruction :=
  { toDecodedFields := f, tailBits := tail, targetAddress := target, registerAValue := a }

/-- An instruction of a class with `e = 0` ends in the record with these fields and this target. -/
def DispClassEnds (s : State) (i : Instr) (op : Opcode) (n ii x b p : Bool) (am : AddressingMode)
    (rm : RelativeMode) (d : BitVec 12) (target : Addr) : Prop :=
  EndsWith i s (.complete (dispRecord (encode i) op n ii x b p am rm d target
    (registerAValue s.cfg.opMatch op n ii target)))

/-- An instruction of a class with `e = 1` ends in the record with these fields, this tail and this target. -/
def AbsClassEnds (s : State) (i : Instr) (op : Opcode) (n ii x b p : Bool) (am : AddressingMode)
    (tail : Tail) (target : Addr) : Prop :=
  EndsWith i s (.complete (absRecord (absFields (encode i) op n ii x b p am) tail target
    (registerAValue s.cfg.opMatch op n ii target)))

/-- A short Format 4 instruction ends as `SHORT_F4_POLICY` says (R77). -/
def ShortClassEnds (s : State) (i : Instr) (op : Opcode) (n ii x b p : Bool) (am : AddressingMode)
    (t : BitVec 12) : Prop :=
  (s.cfg.shortF4Policy = .refuse → EndsWith i s (.refused (absFields (encode i) op n ii x b p am))) ∧
  (s.cfg.shortF4Policy = .truncate12 →
    AbsClassEnds s i op n ii x b p am (.disp t) (BitVec.ofNat 20 t.toNat)) ∧
  (s.cfg.shortF4Policy = .zeroFill →
    AbsClassEnds s i op n ii x b p am (.addr (BitVec.ofNat 20 (t.toNat * 256)))
      (BitVec.ofNat 20 (t.toNat * 256)))

/-- A word with every bit of the mask inverted. -/
def flipBits (w : InstrWord) (mask24 : BitVec 24) (mask32 : BitVec 32) : InstrWord :=
  match w with
  | .w24 v => .w24 (v ^^^ mask24)
  | .w32 v => .w32 (v ^^^ mask32)

/-- Which copied parts of the word a comparison of two ends leaves out, beside the word itself. -/
structure Forget where
  op : Bool := false
  x : Bool := false
  b : Bool := false
  p : Bool := false

/-- The fields without their word and without the parts named. -/
def DecodedFields.without (g : Forget) (f : DecodedFields) : DecodedFields :=
  { f with
    word := .w24 0
    opcodeBits := if g.op then 0 else f.opcodeBits
    x := if g.x then false else f.x
    b := if g.b then false else f.b
    p := if g.p then false else f.p }

/-- The end without its word and without the parts named. -/
def TxEnd.without (g : Forget) : TxEnd → TxEnd
  | .error k => .error k
  | .complete r => .complete { r with toDecodedFields := r.toDecodedFields.without g }
  | .refused f => .refused (f.without g)

/-- Two words end alike at `s`, but for the word itself and the parts named. -/
def SameEndBut (g : Forget) (s : State) (w w' : InstrWord) : Prop :=
  ∃ t t', exec (decode w) s = .next t ∧ exec (decode w') s = .next t' ∧ t.out.without g = t'.out.without g

/-- The end of a transaction on its own: what the block gives for these parameters and inputs. -/
def endOf (cfg : Config) (t : Transaction) : TxEnd :=
  referenceTransaction { State.reset with cfg := cfg, input := t.input, pc := t.pc, base := t.base }

/-- The characters '0' and '1' of a list of bits. -/
def binaryText (l : List Bool) : Text :=
  l.map fun c => if c then '1' else '0'

/-- The label of an addressing mode as it is printed, by the spellings of R94. -/
def printedAddressing : AddressingMode → Text
  | .simple => "Simple".toList
  | .indirect => "Indirect".toList
  | .immediate => "Immediate".toList
  | .invalidAddressing => "InvalidAddressing".toList

/-- The label of a relative mode as it is printed, by the spellings of R94. -/
def printedRelative : RelativeMode → Text
  | .pcRelative => "PC-relative".toList
  | .baseRelative => "Base-relative".toList
  | .direct => "Direct".toList
  | .absoluteFormat4 => "AbsoluteFormat4".toList

/-- What is printed for a format: its digit (R94) and the label of the tail (R95). -/
def printedFormat : Format → Text × Text
  | .three => ("3".toList, "disp".toList)
  | .four => ("4".toList, "addr".toList)

/-- The raw tail, most significant bit first (R95). -/
def printedTail : Tail → Text
  | .disp d => binaryText ((List.range 12).map fun k => d.getLsbD (11 - k))
  | .addr a => binaryText ((List.range 20).map fun k => a.getLsbD (19 - k))

/-- The sixteen uppercase hex digits, each at the place of its value. -/
def uppercaseDigits : Text :=
  "0123456789ABCDEF".toList

/-- `t` is `0x` and then `count` uppercase hex digits that denote `v`: one text at most is so. -/
def IsHexText (t : Text) (count v : Nat) : Prop :=
  ∃ digits : Text, t = '0' :: 'x' :: digits ∧ digits.length = count ∧ (∀ c ∈ digits, c ∈ uppercaseDigits) ∧
    digits.foldl (fun acc c => 16 * acc + uppercaseDigits.idxOf c) 0 = v

end Sys2Proof.Machine

open Sys2Proof Sys2Proof.Machine

/-! ## The decode classes -/

/-- R73: the eight PC-relative classes. The displacement is read as a two's-complement number (`BitVec.toInt`); `base`
is not read and `b` is either value. -/
def Obligations.PcRelativeClassesResolve : Prop :=
  ∀ (op : Opcode) (x b : Bool) (d : BitVec 12) (z : Byte) (s : State),
    let target : Addr := BitVec.ofInt 20 ((s.pc.toNat : Int) + d.toInt)
    DispClassEnds s (.f3SimplePc op x b d) op true true x b true .simple .pcRelative d target ∧
    DispClassEnds s (.f3IndirectPc op x b d) op true false x b true .indirect .pcRelative d target ∧
    DispClassEnds s (.f3ImmediatePc op x b d) op false true x b true .immediate .pcRelative d target ∧
    DispClassEnds s (.f3InvalidPc op x b d) op false false x b true .invalidAddressing .pcRelative d target ∧
    DispClassEnds s (.f3lSimplePc op x b d z) op true true x b true .simple .pcRelative d target ∧
    DispClassEnds s (.f3lIndirectPc op x b d z) op true false x b true .indirect .pcRelative d target ∧
    DispClassEnds s (.f3lImmediatePc op x b d z) op false true x b true .immediate .pcRelative d target ∧
    DispClassEnds s (.f3lInvalidPc op x b d z) op false false x b true .invalidAddressing .pcRelative d target

/-- R74: the eight base-relative classes. `pc` is not read; the displacement is signed. -/
def Obligations.BaseRelativeClassesResolve : Prop :=
  ∀ (op : Opcode) (x : Bool) (d : BitVec 12) (z : Byte) (s : State),
    let target : Addr := BitVec.ofInt 20 ((s.base.toNat : Int) + d.toInt)
    DispClassEnds s (.f3SimpleBase op x d) op true true x true false .simple .baseRelative d target ∧
    DispClassEnds s (.f3IndirectBase op x d) op true false x true false .indirect .baseRelative d target ∧
    DispClassEnds s (.f3ImmediateBase op x d) op false true x true false .immediate .baseRelative d target ∧
    DispClassEnds s (.f3InvalidBase op x d) op false false x true false .invalidAddressing .baseRelative d target ∧
    DispClassEnds s (.f3lSimpleBase op x d z) op true true x true false .simple .baseRelative d target ∧
    DispClassEnds s (.f3lIndirectBase op x d z) op true false x true false .indirect .baseRelative d target ∧
    DispClassEnds s (.f3lImmediateBase op x d z) op false true x true false .immediate .baseRelative d target ∧
    DispClassEnds s (.f3lInvalidBase op x d z) op false false x true false .invalidAddressing .baseRelative d
      target

/-- R75: the eight direct classes; neither `pc` nor `base` is read, and `targetAddress` is never in
`0x00800`–`0xFF7FF`. -/
def Obligations.DirectClassesResolve : Prop :=
  ∀ (op : Opcode) (x : Bool) (d : BitVec 12) (z : Byte) (s : State),
    let target : Addr := BitVec.ofInt 20 (d.toInt)
    (d.toNat < 0x800 → target.toNat = d.toNat) ∧
    (0x800 ≤ d.toNat → target.toNat = 0xFF000 + d.toNat) ∧
    DispClassEnds s (.f3SimpleDirect op x d) op true true x false false .simple .direct d target ∧
    DispClassEnds s (.f3IndirectDirect op x d) op true false x false false .indirect .direct d target ∧
    DispClassEnds s (.f3ImmediateDirect op x d) op false true x false false .immediate .direct d target ∧
    DispClassEnds s (.f3InvalidDirect op x d) op false false x false false .invalidAddressing .direct d target ∧
    DispClassEnds s (.f3lSimpleDirect op x d z) op true true x false false .simple .direct d target ∧
    DispClassEnds s (.f3lIndirectDirect op x d z) op true false x false false .indirect .direct d target ∧
    DispClassEnds s (.f3lImmediateDirect op x d z) op false true x false false .immediate .direct d target ∧
    DispClassEnds s (.f3lInvalidDirect op x d z) op false false x false false .invalidAddressing .direct d target

/-- R76: the four absolute classes; the 20-bit field is the target as it stands. -/
def Obligations.AbsoluteClassesResolve : Prop :=
  ∀ (op : Opcode) (x b p : Bool) (a : BitVec 20) (s : State),
    AbsClassEnds s (.f4SimpleAbs op x b p a) op true true x b p .simple (.addr a) a ∧
    AbsClassEnds s (.f4IndirectAbs op x b p a) op true false x b p .indirect (.addr a) a ∧
    AbsClassEnds s (.f4ImmediateAbs op x b p a) op false true x b p .immediate (.addr a) a ∧
    AbsClassEnds s (.f4InvalidAbs op x b p a) op false false x b p .invalidAddressing (.addr a) a

/-- R77: the four short Format 4 classes under each `SHORT_F4_POLICY`. Under `refuse` the fields the source defines
are there, and there is no tail, target or register-A value. The policies are the spec's decision D10; that a refusal
is a next state is the model's choice (assumption log 9, a DESIGN CHOICE), and the form of the tail under the other
two is DEDUCED (assumption log 10). -/
def Obligations.ShortFormat4ClassesFollowPolicy : Prop :=
  ∀ (op : Opcode) (x b p : Bool) (t : BitVec 12) (s : State),
    ShortClassEnds s (.f4sSimpleAbs op x b p t) op true true x b p .simple t ∧
    ShortClassEnds s (.f4sIndirectAbs op x b p t) op true false x b p .indirect t ∧
    ShortClassEnds s (.f4sImmediateAbs op x b p t) op false true x b p .immediate t ∧
    ShortClassEnds s (.f4sInvalidAbs op x b p t) op false false x b p .invalidAddressing t

/-- The overlay row `ROMHIT.W24` (its note in the table; R88): the word is that of a SIMPLE class with opcode 000000;
its register-A value is `0x103000` iff the target is `0x03600`, under both readings of `OPMATCH`. With `e = 1` it is a
short Format 4 word, which ends as `SHORT_F4_POLICY` says (R77, the spec's decision D10): the source gives that word
no tail, target or lookup key (R89). That a refusal is a next state is the model's choice (assumption log 9, a DESIGN
CHOICE), and the 12-bit tail under `truncate12` and the 20-bit tail under `zero_fill` are DEDUCED (assumption log 10).
That the row is an instruction of its own is assumption log 17. -/
def Obligations.RomOverlayShortWordEnds : Prop :=
  ∀ (x b p : Bool) (t : BitVec 12) (s : State),
    (let target : Addr := BitVec.ofInt 20
      (if p then (s.pc.toNat : Int) + t.toInt else if b then (s.base.toNat : Int) + t.toInt
        else t.toInt)
     EndsWith (.romhitW24 x b p false t) s (.complete
      (dispRecord (encode (.romhitW24 x b p false t)) 0 true true x b p .simple
        (if p then .pcRelative else if b then .baseRelative else .direct) t target
        (if target = 0x03600#20 then some 0x103000#24 else none)))) ∧
    (s.cfg.shortF4Policy = .refuse →
      EndsWith (.romhitW24 x b p true t) s
        (.refused (absFields (encode (.romhitW24 x b p true t)) 0 true true x b p .simple))) ∧
    (s.cfg.shortF4Policy = .truncate12 →
      let target : Addr := BitVec.ofNat 20 t.toNat
      EndsWith (.romhitW24 x b p true t) s (.complete
        (absRecord (absFields (encode (.romhitW24 x b p true t)) 0 true true x b p .simple) (.disp t) target
          (if target = 0x03600#20 then some 0x103000#24 else none)))) ∧
    (s.cfg.shortF4Policy = .zeroFill →
      let target : Addr := BitVec.ofNat 20 (t.toNat * 256)
      EndsWith (.romhitW24 x b p true t) s (.complete
        (absRecord (absFields (encode (.romhitW24 x b p true t)) 0 true true x b p .simple) (.addr target) target
          (if target = 0x03600#20 then some 0x103000#24 else none))))

/-- The overlay row `ROMHIT.W32` (its note in the table; R88, R89: "the lookup runs in Format 4 as well"). -/
def Obligations.RomOverlayLongWordEnds : Prop :=
  ∀ (x b p : Bool) (t : BitVec 20) (s : State),
    (let d := t.extractLsb' 8 12
     let target : Addr := BitVec.ofInt 20
      (if p then (s.pc.toNat : Int) + d.toInt else if b then (s.base.toNat : Int) + d.toInt
        else d.toInt)
     EndsWith (.romhitW32 x b p false t) s (.complete
      (dispRecord (encode (.romhitW32 x b p false t)) 0 true true x b p .simple
        (if p then .pcRelative else if b then .baseRelative else .direct) d target
        (if target = 0x03600#20 then some 0x103000#24 else none)))) ∧
    EndsWith (.romhitW32 x b p true t) s (.complete
      (absRecord (absFields (encode (.romhitW32 x b p true t)) 0 true true x b p .simple) (.addr t) t
        (if t = 0x03600#20 then some 0x103000#24 else none)))

/-! ## Encoding -/

/-- Decoding the word of a decode class gives the class back, every operand at every value (R36 to R41, R46). -/
def Obligations.DecodeEncodeIsIdentity : Prop :=
  ∀ i : Instr, i.wellFormed = true → decode (encode i) = i

/-- Every word is the word of what it decodes to: no bit of a word is dropped (R36 to R41, R46). -/
def Obligations.EncodeDecodeIsIdentity : Prop :=
  ∀ w : InstrWord, encode (decode w) = w

/-- R46: "32 classes, which are pairwise disjoint and together cover every pair (W, v)". The decoder answers a class
whose table row holds of the word, no other class row holds of it, and the rows are disjoint by match and mask. -/
def Obligations.ExactlyOneClassRowHoldsOfAWord : Prop :=
  classRows.length = 32 ∧ classRows.Pairwise TableRow.Disjoint ∧
  ∀ w : InstrWord,
    (decode w).wellFormed = true ∧ (decode w).tableRow ∈ classRows ∧ (decode w).tableRow.Holds w ∧
    ∀ r ∈ classRows, r.Holds w → r = (decode w).tableRow

/-- R46: an overlay row "marks" words of the SIMPLE classes: its word decodes to a SIMPLE class, its meaning is that
class's meaning, and the words its row holds of are exactly its own. -/
def Obligations.OverlayWordsDecodeToTheirClass : Prop :=
  (∀ i : Instr, i.isOverlay = true →
    decode (encode i) = i.toClass ∧ i.toClass.wellFormed = true ∧ ∀ s, exec i s = exec i.toClass s) ∧
  (∀ w : InstrWord,
    ((Instr.romhitW24 false false false false 0).tableRow.Holds w ↔
      ∃ x b p e t, w = encode (.romhitW24 x b p e t)) ∧
    ((Instr.romhitW32 false false false false 0).tableRow.Holds w ↔
      ∃ x b p e t, w = encode (.romhitW32 x b p e t)))

/-- Words written out from the pattern strings of R46 decode to the instructions they stand for. -/
def Obligations.SampleWordsDecode : Prop :=
  decode (.w24 0b010010_1_1_0_0_1_0_111111111010#24) = .f3SimplePc 0b010010#6 false false 0xFFA#12 ∧
  decode (.w24 0b010101_1_1_1_1_0_0_000000000011#24) = .f3SimpleBase 0b010101#6 true 0x003#12 ∧
  decode (.w24 0b000000_0_1_0_0_0_0_000000110000#24) = .f3ImmediateDirect 0#6 false 0x030#12 ∧
  decode (.w32 0b000000_1_1_0_0_1_0_000000110110_00000000#32) = .f3lSimplePc 0#6 false false 0x036#12 0x00#8 ∧
  decode (.w32 0b010010_1_1_0_0_0_1_00000001000000110110#32) = .f4SimpleAbs 0b010010#6 false false false 0x01036#20 ∧
  decode (.w24 0b000000_1_1_0_0_0_1_000000110110#24) = .f4sSimpleAbs 0#6 false false false 0x036#12

/-- R27, D13: a word delivered as bytes has the byte at the lowest address most significant, and a number of bytes
other than 3 or 4 is no word (R35). The byte order is the spec's decision (assumption log 14). -/
def Obligations.DeliveredBytesAreMostSignificantFirst : Prop :=
  (∀ b0 b1 b2 : Byte,
    (wordOfBytes3 b0 b1 b2).value = b0.toNat * 65536 + b1.toNat * 256 + b2.toNat ∧
    decodeBytes [b0, b1, b2] = .instr (decode (wordOfBytes3 b0 b1 b2))) ∧
  (∀ b0 b1 b2 b3 : Byte,
    (wordOfBytes4 b0 b1 b2 b3).value =
      b0.toNat * 16777216 + b1.toNat * 65536 + b2.toNat * 256 + b3.toNat ∧
    decodeBytes [b0, b1, b2, b3] = .instr (decode (wordOfBytes4 b0 b1 b2 b3))) ∧
  (∀ l : List Byte, l.length ≠ 3 → l.length ≠ 4 → decodeBytes l = .badByteCount l.length)

/-- R59: `bits` has exactly `W` digits, digit `k` is `v[W-1-k]`, and read as a binary number it is `v`. -/
def Obligations.BitsAreTheWordMostSignificantFirst : Prop :=
  ∀ w : InstrWord,
    w.bits.length = w.width ∧ bitsValue w.bits = w.value ∧
    ∀ k, k < w.width → w.bits[k]? = some (w.value.testBit (w.width - 1 - k))

/-- R60, R61, R63: the fields of a complete result are the slices of its own `bits`, in the source's string
numbering. -/
def Obligations.ResultFieldsAreSlicesOfBits : Prop :=
  ∀ (s t : State) (r : DecodedInstruction), step s = .next t → t.out = .complete r →
    bitsValue (bitsSlice r.word.bits 0 6) = r.opcodeBits.toNat ∧
    bitsSlice r.word.bits 6 12 = [r.n, r.i, r.x, r.b, r.p, r.e] ∧
    (r.e = false → ∃ d : BitVec 12, r.tailBits = .disp d ∧ d.toNat = bitsValue (bitsSlice r.word.bits 12 24)) ∧
    (r.e = true → r.word.width = 32 →
      ∃ a : BitVec 20, r.tailBits = .addr a ∧ a.toNat = bitsValue (bitsSlice r.word.bits 12 32))

/-! ## The text front-end -/

/-- R51: trimming removes a leading and a trailing run of whitespace, and what is left neither begins nor ends with
whitespace. -/
def Obligations.TrimRemovesTheLongestBlankEnds : Prop :=
  ∀ ws raw : List Byte,
    (∃ front back, raw = front ++ trim ws raw ++ back ∧ (∀ c ∈ front, c ∈ ws) ∧ (∀ c ∈ back, c ∈ ws)) ∧
    (∀ c, (trim ws raw).head? = some c → c ∉ ws) ∧
    (∀ c, (trim ws raw).getLast? = some c → c ∉ ws)

/-- R52, R53: only `A` to `Z` are changed, each to the byte 0x20 greater; a leading `0x` is removed, at most once, and
any other text is unchanged. That a character is an ASCII byte is the spec's decision D4 (assumption log 5). -/
def Obligations.LowercaseAndHexMarkFollowTheirRules : Prop :=
  (∀ c : Byte, (0x41 ≤ c.toNat ∧ c.toNat ≤ 0x5A → (lowerByte c).toNat = c.toNat + 0x20) ∧
    (¬(0x41 ≤ c.toNat ∧ c.toNat ≤ 0x5A) → lowerByte c = c)) ∧
  (∀ rest : List Byte, stripHexMark (0x30#8 :: 0x78#8 :: rest) = rest) ∧
  (∀ t : List Byte, (¬∃ rest, t = 0x30#8 :: 0x78#8 :: rest) → stripHexMark t = t)

/-- R54, R55: on the cleaned text the length is checked, and the digits; otherwise the text is `hexDigits`. That the
length comes first is the spec's decision D6 (R102; assumption log 6, a DESIGN CHOICE). With a line buffer, a line it
does not hold is `InvalidLength` and one it does hold, at its full length too, is treated as without a limit (R50, the
spec's decision D4); that the limit counts the raw line is the model's choice (assumption log 7). -/
def Obligations.NormalizeChecksLengthThenDigits : Prop :=
  ∀ (cfg : Config) (raw : List Byte),
    (cfg.maxChars = none →
      (normalize cfg raw = .error .invalidLength ↔
        (cleaned cfg.ws raw).length ≠ 6 ∧ (cleaned cfg.ws raw).length ≠ 8) ∧
      (normalize cfg raw = .error .invalidHexDigits ↔
        ((cleaned cfg.ws raw).length = 6 ∨ (cleaned cfg.ws raw).length = 8) ∧
        ∃ c ∈ cleaned cfg.ws raw, isHexDigit c = false) ∧
      ∀ h, normalize cfg raw = .digits h ↔
        h = cleaned cfg.ws raw ∧ (h.length = 6 ∨ h.length = 8) ∧ ∀ c ∈ h, isHexDigit c = true) ∧
    (∀ m, cfg.maxChars = some m →
      (m < raw.length → normalize cfg raw = .error .invalidLength) ∧
      (raw.length ≤ m → normalize cfg raw = normalize { cfg with maxChars := none } raw))

/-- R16, R56, R58 (a): the three views of an accepted text denote the same word. -/
def Obligations.AcceptedTextIsTheWordsHexDigits : Prop :=
  ∀ (cfg : Config) (raw h : List Byte), normalize cfg raw = .digits h →
    hexDigits (parseHex h) = h ∧ (parseHex h).width = 4 * h.length ∧
    (parseHex h).value = hexValue h ∧ bitsValue (parseHex h).bits = hexValue h

/-- R58 (b): `normalize` is idempotent on its own output, for any whitespace set that holds no hex digit. -/
def Obligations.NormalizeIsIdempotent : Prop :=
  ∀ (cfg : Config) (raw h : List Byte), cfg.maxChars = none → (∀ c ∈ cfg.ws, isHexDigit c = false) →
    normalize cfg raw = .digits h → normalize cfg h = .digits h

/-- R58 (d), (e): every word is reached by its digits as text, in either case, with or without one `0x` or `0X`, and
with any default whitespace around it. The whitespace set and the ASCII letters are the spec's decision D4 (assumption
log 5). -/
def Obligations.EveryWordIsReachedByItsTexts : Prop :=
  ∀ (cfg : Config) (w : InstrWord) (front mark digits back : List Byte),
    cfg.maxChars = none → cfg.ws = defaultWs →
    (∀ c ∈ front, c ∈ cfg.ws) → (∀ c ∈ back, c ∈ cfg.ws) →
    (mark = [] ∨ mark = [0x30#8, 0x78#8] ∨ mark = [0x30#8, 0x58#8]) →
    digits.map lowerByte = hexDigits w →
    frameText cfg (front ++ mark ++ digits ++ back) = .word w

/-! ## The step -/

/-- A step runs the decoded instruction, and an error of the front-end ends it before any field is cut (R8, R117). -/
def Obligations.StepRunsTheDecodedInstruction : Prop :=
  ∀ s : State,
    (∀ w, frontEnd s.cfg s.input = .word w → step s = exec (decode w) s) ∧
    (∀ k, frontEnd s.cfg s.input = .error k → step s = raiseError k s)

/-- The instruction the decoder reads from a table word is the one the next step runs when that word is driven on the
ports `w32` and `word` (R20, R46). -/
def Obligations.TableWordRunsOnTheNextStep : Prop :=
  ∀ (s : State) (nbits w : Nat) (i : Instr), w < 2 ^ nbits → decodeTableWord nbits w = some i →
    step (s.withFetchWord nbits w) = exec i (s.withFetchWord nbits w)

/-- R48, R122: no input, no bit pattern and no parameter stops the machine; every instruction completes. That a
refused word is a next state is the model's choice (assumption log 9, a DESIGN CHOICE). -/
def Obligations.NothingStopsTheMachine : Prop :=
  (∀ s : State, ∃ t, step s = .next t) ∧ (∀ (i : Instr) (s : State), ∃ t, exec i s = .next t)

/-- A transaction writes no input and no parameter (R6, R10, R11, R12, R21). -/
def Obligations.StepLeavesInputsAndParameters : Prop :=
  (∀ s t : State, step s = .next t →
    t.cfg = s.cfg ∧ t.input = s.input ∧ t.pc = s.pc ∧ t.base = s.base) ∧
  (∀ (i : Instr) (s t : State), exec i s = .next t →
    t.cfg = s.cfg ∧ t.input = s.input ∧ t.pc = s.pc ∧ t.base = s.base)

/-- R122: a transaction ends in exactly one of three ways, and nothing of an earlier end persists; a sequence is a
list of independent transactions. That the third way, a refusal, is a next state is the model's choice (assumption log
9, a DESIGN CHOICE). -/
def Obligations.TransactionEndsInOneOfThreeWays : Prop :=
  (∀ s t : State, step s = .next t →
    ((∃ k, t.out = .error k) ↔ ∃ k, frontEnd s.cfg s.input = .error k) ∧
    ((∃ f, t.out = .refused f) ↔
      s.cfg.shortF4Policy = .refuse ∧
        ∃ v, frontEnd s.cfg s.input = .word (.w24 v) ∧ v.getLsbD 12 = true) ∧
    ((∃ r, t.out = .complete r) ↔
      ∃ w, frontEnd s.cfg s.input = .word w ∧
        (s.cfg.shortF4Policy = .refuse → w.width = 24 → w.value.testBit 12 = false))) ∧
  (∀ (s : State) (ts : List Transaction), runAll s ts = ts.map (endOf s.cfg))

/-- R10: "calling decode twice with identical arguments yields identical results", whatever the outputs showed
before. -/
def Obligations.IdenticalArgumentsGiveIdenticalEnds : Prop :=
  ∀ s s' t t' : State, s.cfg = s'.cfg → s.input = s'.input → s.pc = s'.pc → s.base = s'.base →
    step s = .next t → step s' = .next t' →
    t.out = t'.out ∧ ∃ u, step t = .next u ∧ u.out = t.out

/-- R31, R107: in any order, and whatever was run before, each transaction of a list has the end it has alone. -/
def Obligations.TransactionOrderDoesNotMatter : Prop :=
  ∀ (s s' : State) (ts ts' : List Transaction), s.cfg = s'.cfg → ts.Perm ts' →
    (ts.zip (runAll s ts)).Perm (ts'.zip (runAll s' ts')) ∧ (runAll s ts).length = ts.length

/-- R13: only `pc mod 2^20` and `base mod 2^20` can influence an output. -/
def Obligations.OnlyLowTwentyBitsOfInputsMatter : Prop :=
  ∀ s s' t t' : State, s.cfg = s'.cfg → s.input = s'.input →
    s.pc.toNat % 2 ^ 20 = s'.pc.toNat % 2 ^ 20 → s.base.toNat % 2 ^ 20 = s'.base.toNat % 2 ^ 20 →
    step s = .next t → step s' = .next t' → t.out = t'.out

/-- R79, R116: `pc` matters to PC-relative words only, `base` to base-relative words only; an error depends on
neither (R58 (c)). -/
def Obligations.UnreadInputsHaveNoEffect : Prop :=
  ∀ s s' t t' : State, s.cfg = s'.cfg → s.input = s'.input →
    (∀ w, frontEnd s.cfg s.input = .word w →
      (relativeMode (extractFields w).e (extractFields w).p (extractFields w).b = .pcRelative → s.pc = s'.pc) ∧
      (relativeMode (extractFields w).e (extractFields w).p (extractFields w).b = .baseRelative →
        s.base = s'.base)) →
    step s = .next t → step s' = .next t' → t.out = t'.out

/-- The end a step leaves is the one the source's algorithm gives: front-end, extractor, resolver, ROM (R57, R70, R84,
R88), whatever class the word is in. For a short Format 4 word the algorithm is completed by `SHORT_F4_POLICY` (R77,
the spec's decision D10; assumption log 9, 10), and the order of the two checks and the reading of the opcode match
are its decisions D6 and D9 (assumption log 6, 8). -/
def Obligations.StepRefinesTheSourceAlgorithm : Prop :=
  ∀ s : State, ∃ t, step s = .next t ∧ t.out = referenceTransaction s

/-! ## Ignored bits -/

/-- R64: the `x` flag has no effect: the word with `x` inverted ends alike in every field but `x` and the word. -/
def Obligations.IndexFlagHasNoEffect : Prop :=
  ∀ (s : State) (w : InstrWord),
    SameEndBut { x := true } s w (flipBits w 0x008000#24 0x00800000#32)

/-- R80: with `e = 0` and `p = 1`, inverting `b` changes nothing but the copied flag. -/
def Obligations.PcRelativeWinsOverBase : Prop :=
  ∀ (s : State) (w : InstrWord), (extractFields w).e = false → (extractFields w).p = true →
    (∃ t r, exec (decode w) s = .next t ∧ t.out = .complete r ∧ r.relativeMode = .pcRelative) ∧
    SameEndBut { b := true } s w (flipBits w 0x004000#24 0x00400000#32)

/-- R81: with `e = 1`, `b` and `p` are copied and otherwise ignored. -/
def Obligations.FormatFourIgnoresBaseAndPcFlags : Prop :=
  ∀ (s : State) (w : InstrWord), (extractFields w).e = true →
    SameEndBut { b := true, p := true } s w (flipBits w 0x004000#24 0x00400000#32) ∧
    SameEndBut { b := true, p := true } s w (flipBits w 0x002000#24 0x00200000#32) ∧
    SameEndBut { b := true, p := true } s w (flipBits w 0x006000#24 0x00600000#32)

/-- R40: the last eight bits of a 32-bit word with `e = 0` have no effect on any output except `bits` itself. -/
def Obligations.LastByteOfLongFormatThreeIsIgnored : Prop :=
  ∀ (s : State) (v : BitVec 32) (z : Byte), v.getLsbD 20 = false →
    SameEndBut {} s (.w32 v) (.w32 (v ^^^ z.setWidth 32))

/-- R45: all opcodes are accepted and treated alike but for 000000: two words that differ in their opcode bits only,
neither opcode 000000, end alike in every field but the opcode and the word (`OPMATCH = first_byte`). The reading
`first_byte` is the spec's decision D9 (assumption log 8). -/
def Obligations.OpcodesOtherThanZeroAreTreatedAlike : Prop :=
  ∀ (s : State) (w : InstrWord) (m : BitVec 6), s.cfg.opMatch = .firstByte →
    (extractFields w).opcodeBits ≠ 0 → (extractFields w).opcodeBits ^^^ m ≠ 0 →
    SameEndBut { op := true } s w (flipBits w (m ++ 0#18) (m ++ 0#26))

/-- R20 (U9): when `w32 = 0`, `word[31:24]` is ignored. The ports are the spec's decision D1 (assumption log 15). -/
def Obligations.PortsIgnoreTheTopByteOfShortWords : Prop :=
  ∀ (s t t' : State) (word word' : BitVec 32), word.toNat % 2 ^ 24 = word'.toNat % 2 ^ 24 →
    step { s with input := .word false word } = .next t → step { s with input := .word false word' } = .next t' →
    t.out = t'.out ∧ ∀ f : DecodedFields,
      (t.out = .refused f ∨ ∃ r, t.out = .complete r ∧ r.toDecodedFields = f) →
        f.word = .w24 (BitVec.ofNat 24 word.toNat)

/-- R4: `ADDR_UNIT` is "used by no rule", and `EXIT_CODE_ON_ERROR` is the host's alone: neither changes an end. -/
def Obligations.InertParametersChangeNoEnd : Prop :=
  ∀ (s t t' : State) (unit code : Nat), step s = .next t →
    step { s with cfg := { s.cfg with addrUnitBits := unit, exitCodeOnError := code } } = .next t' →
    t.out = t'.out

/-! ## Arithmetic and labels -/

/-- R71: two's-complement sign extension over 12 bits, its range, and its 20-bit hardware form, which R71 marks as
derived. -/
def Obligations.SignedDisplacementIsTwosComplement : Prop :=
  ∀ d : BitVec 12,
    (d.getLsbD 11 = true → signedDisp d = (d.toNat : Int) - 4096) ∧
    (d.getLsbD 11 = false → signedDisp d = (d.toNat : Int)) ∧
    -2048 ≤ signedDisp d ∧ signedDisp d ≤ 2047 ∧
    ((d.signExtend 20).toNat : Int) = signedDisp d % 2 ^ 20

/-- R78: the sum modulo 2^20 is the sum of the residues, so that one 20-bit adder with its carry dropped is exact. -/
def Obligations.TwentyBitAdderIsExact : Prop :=
  (∀ a b : Int, (toAddr (a + b)).toNat = ((a % 2 ^ 20 + b % 2 ^ 20) % 2 ^ 20).toNat) ∧
  ∀ (r : RegWord) (d : BitVec 12),
    pcRelative r d = r.setWidth 20 + d.signExtend 20 ∧
    baseRelative r d = r.setWidth 20 + d.signExtend 20 ∧
    directTarget d = d.signExtend 20

/-- R62, R65, R72: `format`, `addressingMode` and `relativeMode` are functions of the flags alone, as the tables
say. -/
def Obligations.LabelsFollowTheFlags : Prop :=
  formatOf true = .four ∧ formatOf false = .three ∧
  addressingMode true true = .simple ∧ addressingMode true false = .indirect ∧
  addressingMode false true = .immediate ∧ addressingMode false false = .invalidAddressing ∧
  ∀ p b : Bool,
    relativeMode true p b = .absoluteFormat4 ∧ relativeMode false true b = .pcRelative ∧
    relativeMode false false true = .baseRelative ∧ relativeMode false false false = .direct

/-! ## The opcode ROM -/

/-- R86: the ROM answers `0x103000` for the key `0x03600`, compared on all twenty bits, and nothing for any other. -/
def Obligations.RomHasOneEntry : Prop :=
  ∀ k : Addr, (k = 0x03600#20 → romLookup k = some 0x103000#24) ∧ (k ≠ 0x03600#20 → romLookup k = none)

/-- R87: the enable under each reading of `OPMATCH`; that there are two readings is the spec's decision D9 (assumption
log 8). -/
def Obligations.RomEnableFollowsOpmatch : Prop :=
  ∀ (op : Opcode) (n i : Bool),
    (romEnable .firstByte op n i = true ↔ op = 0b000000#6 ∧ n = true ∧ i = true) ∧
    (romEnable .sixBit op n i = true ↔ op.toNat ≤ 3 ∧ n = true ∧ i = true)

/-- R88: after any transaction, a complete result has the register-A value `0x103000` iff its opcode is 000000,
n = i = 1 and its target is `0x03600`, and otherwise none (`OPMATCH = first_byte`, the spec's decision D9, assumption
log 8). -/
def Obligations.RegisterAIsPresentExactlyOnARomHit : Prop :=
  ∀ (s t : State) (r : DecodedInstruction), s.cfg.opMatch = .firstByte → step s = .next t → t.out = .complete r →
    (r.registerAValue = some 0x103000#24 ↔
      r.opcodeBits = 0b000000#6 ∧ r.n = true ∧ r.i = true ∧ r.targetAddress = 0x03600#20) ∧
    (r.registerAValue = none ∨ r.registerAValue = some 0x103000#24)

/-- R89: a Direct word cannot hit, and no label but Simple can, under either reading of `OPMATCH`. -/
def Obligations.DirectOrNonSimpleWordsNeverHit : Prop :=
  ∀ (s t : State) (r : DecodedInstruction), step s = .next t → t.out = .complete r →
    (r.relativeMode = .direct ∨ r.addressingMode ≠ .simple) → r.registerAValue = none

/-! ## Errors -/

/-- R99: the errors come from text only, and an error ends the transaction with its kind; the inputs stay (R103). -/
def Obligations.ErrorsComeFromTextOnly : Prop :=
  (∀ (s t : State) (k : ErrorKind), step s = .next t → t.out = .error k →
    ∃ raw, s.input = .text raw ∧ normalize s.cfg raw = .error k) ∧
  (∀ (s : State) (raw : List Byte) (k : ErrorKind), s.input = .text raw → normalize s.cfg raw = .error k →
    ∃ t, step s = .next t ∧ t.out = .error k ∧
      t.cfg = s.cfg ∧ t.input = s.input ∧ t.pc = s.pc ∧ t.base = s.base)

/-- R104: the codes on `err`; 3 never occurs; `result_valid` is 1 iff `err` is 0 (R20). The numbers are the spec's
decision D7 (assumption log 12). -/
def Obligations.ErrorCodesOnThePorts : Prop :=
  (∀ s : State, s.out = .error .invalidLength → s.ports.err = 1#2) ∧
  (∀ s : State, s.out = .error .invalidHexDigits → s.ports.err = 2#2) ∧
  (∀ s : State, (∀ k, s.out ≠ .error k) → s.ports.err = 0#2) ∧
  (∀ s : State, s.ports.err ≠ 3#2 ∧ (s.ports.resultValid = true ↔ s.ports.err = 0#2))

/-! ## Ports -/

/-- R20: after any transaction that gives a result, the ports show it, coded as the table says: `relMode` is 0 Direct,
1 PC-relative, 2 Base-relative, 3 AbsoluteFormat4. The codes are the spec's decision D8 (assumption log 12, a DESIGN
CHOICE), an absent `regA` its decision D12, and `consistent` its decision D11 (assumption log 13). That the upper eight
bits of `tail` are 0 for the 12-bit tail of a short Format 4 word (`truncate12`) is the model's choice (assumption
log 31). -/
def Obligations.PortsShowTheResult : Prop :=
  ∀ (s t : State) (r : DecodedInstruction), step s = .next t → t.out = .complete r →
    t.ports.bits_o.toNat = r.word.value ∧ t.ports.opcodeBits = r.opcodeBits ∧
    t.ports.n = r.n ∧ t.ports.i = r.i ∧ t.ports.x = r.x ∧ t.ports.b = r.b ∧ t.ports.p = r.p ∧ t.ports.e = r.e ∧
    t.ports.format4 = r.e ∧
    (∀ d, r.tailBits = .disp d → t.ports.tail.toNat = d.toNat) ∧
    (∀ a, r.tailBits = .addr a → t.ports.tail = a) ∧
    t.ports.addrMode = BitVec.ofBool r.n ++ BitVec.ofBool r.i ∧
    (r.relativeMode = .direct → t.ports.relMode = 0#2) ∧ (r.relativeMode = .pcRelative → t.ports.relMode = 1#2) ∧
    (r.relativeMode = .baseRelative → t.ports.relMode = 2#2) ∧
    (r.relativeMode = .absoluteFormat4 → t.ports.relMode = 3#2) ∧ t.ports.target = r.targetAddress ∧
    (t.ports.regAValid = true ↔ r.registerAValue ≠ none) ∧
    (∀ a, r.registerAValue = some a → t.ports.regA = a) ∧
    (t.ports.consistent = true ↔ (r.e = true ↔ r.word.width = 32)) ∧
    t.ports.err = 0#2 ∧ t.ports.resultValid = true

/-- R41, R77: the ports of a refused word show the fields the source defines, and `consistent = 0` is the only
warning. The codes of `addrMode = {n, i}`, `relMode = 3` and `format4 = 1` are R20's, the spec's decision D8
(assumption log 12, a DESIGN CHOICE), and `consistent` is its decision D11 (assumption log 13). That a refusal is the
end of a transaction, in a next state, is the model's choice under the spec's decision D10 (assumption log 9, a DESIGN
CHOICE). `err = 0`, and so `result_valid = 1` by R20, is DEDUCED (assumption log 29). -/
def Obligations.RefusedWordShowsItsDefinedFields : Prop :=
  ∀ (s t : State) (f : DecodedFields), step s = .next t → t.out = .refused f →
    f.word.width = 24 ∧ t.ports.bits_o.toNat = f.word.value ∧ t.ports.opcodeBits = f.opcodeBits ∧
    t.ports.n = f.n ∧ t.ports.i = f.i ∧ t.ports.x = f.x ∧ t.ports.b = f.b ∧ t.ports.p = f.p ∧
    t.ports.e = true ∧ t.ports.format4 = true ∧ t.ports.relMode = 3#2 ∧
    t.ports.addrMode = BitVec.ofBool f.n ++ BitVec.ofBool f.i ∧
    t.ports.consistent = false ∧ t.ports.err = 0#2 ∧ t.ports.resultValid = true

/-! ## Reset and invariants -/

/-- R115: the reset values the spec assigns to the holding registers of `pc` and `base`, its decision D17 (assumption
log 3). -/
def Obligations.ResetDrivesTheDefaults : Prop :=
  State.reset.pc = 0x3000#24 ∧ State.reset.base = 0x0000#24

/-- The model's choice of assumption log 3 (the empty line at reset) is consistent with R22: the outputs after a reset
are the function of the inputs, and the first step leaves them as they are. -/
def Obligations.ResetIsSafeAndSettled : Prop :=
  State.reset.Safe ∧ State.reset.Settled ∧ ∃ t, step State.reset = .next t ∧ t.out = State.reset.out

/-- R18: the invariants of every result are kept by every step and by every instruction. For the short Format 4 word
they are completed by the spec's decision D10: the mark of a refusal (assumption log 9, a DESIGN CHOICE) and the form
of the tail (assumption log 10, DEDUCED). -/
def Obligations.EveryStepKeepsSafety : Prop :=
  (∀ s t : State, s.Safe → step s = .next t → t.Safe) ∧
  (∀ (i : Instr) (s t : State), s.Safe → exec i s = .next t → t.Safe)

/-- R10, R113: after every step the outputs are the function of the inputs. -/
def Obligations.EveryStepSettlesTheOutputs : Prop :=
  ∀ s t : State, step s = .next t → t.Settled

/-! ## The command-line host -/

/-- R96: a number is printed as `0x` and the uppercase hex digits of its value: four for a target up to `0xFFFF`, five
above it, never truncated; six for a register-A value. That `%04X` is a minimum width, so that a target above `0xFFFF`
takes five digits, is PRESUMED (assumption log 21; C3; R96 marks it as from general knowledge). -/
def Obligations.PrintedNumbersHaveTheirWidths : Prop :=
  (∀ a : Addr, IsHexText (hexFormat 4 5 a.toNat) (if a.toNat ≤ 0xFFFF then 4 else 5) a.toNat) ∧
  (∀ a : RegA, IsHexText (hexFormat 6 6 a.toNat) 6 a.toNat)

/-- R91 to R95: on a line that decodes, the host prompts once, prints the items of the result for `pc = 0x3000` and
`base = 0x0000`, in order, each with its text, and ends. That the labels are printed in these spellings is DEDUCED
(R94; assumption log 18), the layout of the flags by name is the model's choice (assumption log 18), and the exit code is
a free value (assumption log 19). The texts of the numbers are those of PrintedNumbersHaveTheirWidths. -/
def Obligations.HostPrintsTheResultInOrder : Prop :=
  ∀ (cfg : Config) (line : List Byte) (w : InstrWord) (r : DecodedInstruction),
    frameText cfg line = .word w → reference cfg w 0x3000 0 = .complete r →
    ∃ items more : List PrintItem,
      items = [PrintItem.binary (binaryText r.word.bits),
        PrintItem.opcode (binaryText ((List.range 6).map fun k => r.opcodeBits.getLsbD (5 - k))),
        PrintItem.nixbpe (binaryText [r.n, r.i, r.x, r.b, r.p, r.e])
          [('n', r.n), ('i', r.i), ('x', r.x), ('b', r.b), ('p', r.p), ('e', r.e)],
        PrintItem.description ("SIC/XE, ".toList ++ printedAddressing r.addressingMode ++ ", ".toList ++
          printedRelative r.relativeMode ++ ", Format ".toList ++ (printedFormat r.format).1),
        PrintItem.tail (printedFormat r.format).2 (printedTail r.tailBits),
        PrintItem.target (hexFormat 4 5 r.targetAddress.toNat)] ∧
      interaction cfg line = some (HostAction.prompt ::
        ((items ++ more).map HostAction.print ++ [HostAction.exit Config.exitCodeOnSuccess])) ∧
      (r.registerAValue = none → more = []) ∧
      (∀ a, r.registerAValue = some a → more = [PrintItem.registerA (hexFormat 6 6 a.toNat)])

/-- R97, R98: on a line that does not decode, the host prints one line, the word for "error", a colon, a space and
a message, and ends with the parameter's exit code. -/
def Obligations.HostPrintsOneLineOnFailure : Prop :=
  ∀ (cfg : Config) (line : List Byte) (k : ErrorKind), frameText cfg line = .error k →
    interaction cfg line = some
      [.prompt, .print (.failure (['에', '러', ':', ' '] ++ Config.errorMessage k)), .exit cfg.exitCodeOnError]

/-- The source's Scenario 1 printed (95_test_vectors.md H1). -/
def Obligations.ScenarioOneIsPrinted : Prop :=
  interaction defaultConfig [0x30#8, 0x33#8, 0x32#8, 0x36#8, 0x30#8, 0x30#8] = some
    [.prompt,
     .print (.binary "000000110010011000000000".toList),
     .print (.opcode "000000".toList),
     .print (.nixbpe "110010".toList
       [('n', true), ('i', true), ('x', false), ('b', false), ('p', true), ('e', false)]),
     .print (.description "SIC/XE, Simple, PC-relative, Format 3".toList),
     .print (.tail "disp".toList "011000000000".toList),
     .print (.target "0x3600".toList),
     .print (.registerA "0x103000".toList),
     .exit Config.exitCodeOnSuccess]
end

