-- ==== Sys2Proof/Laws/Decode.lean ====
section
/-! SUPPORT. What the field layouts are as numbers, that each field is read back from its place, and what a mask keeps
of a word (30_encoding.md R36 to R41, R46). -/

namespace Sys2Proof

/-! ## Numbers and bit fields -/

theorem append_toNat_mul {w v : Nat} (x : BitVec w) (y : BitVec v) :
    (x ++ y).toNat = x.toNat * 2 ^ v + y.toNat := by
  rw [BitVec.toNat_append, Nat.shiftLeft_eq, Nat.mul_comm, Nat.two_pow_add_eq_or_of_lt y.isLt]

theorem toNat_getLsbD {w : Nat} (v : BitVec w) (k : Nat) : (v.getLsbD k).toNat = v.toNat / 2 ^ k % 2 := by
  rw [← BitVec.testBit_toNat, Nat.toNat_testBit]

theorem toNat_extractLsb' {w : Nat} (s l : Nat) (v : BitVec w) :
    (v.extractLsb' s l).toNat = v.toNat / 2 ^ s % 2 ^ l := by
  rw [BitVec.extractLsb'_toNat, Nat.shiftRight_eq_div_pow]

theorem getLsbD_of_digit {w : Nat} {v : BitVec w} {k : Nat} {c : Bool} (h : v.toNat / 2 ^ k % 2 = c.toNat) :
    v.getLsbD k = c := by
  rw [← BitVec.testBit_toNat, Nat.testBit_eq_decide_div_mod_eq, h]
  cases c <;> rfl

theorem extractLsb'_of_digits {w s l : Nat} {v : BitVec w} {y : BitVec l}
    (h : v.toNat / 2 ^ s % 2 ^ l = y.toNat) : v.extractLsb' s l = y :=
  BitVec.eq_of_toNat_eq ((toNat_extractLsb' s l v).trans h)

/-- A mask of one field keeps that field. -/
theorem land_field (m s l : Nat) : m &&& (2 ^ s * (2 ^ l - 1)) = 2 ^ s * (m / 2 ^ s % 2 ^ l) := by
  apply Nat.eq_of_testBit_eq
  intro k
  simp only [Nat.testBit_and, Nat.testBit_two_pow_mul, Nat.testBit_two_pow_sub_one, Nat.testBit_mod_two_pow,
    Nat.testBit_div_two_pow]
  by_cases h : s ≤ k
  · simp [h, Bool.and_comm]
  · simp [h]

/-- A mask of two fields keeps those two. -/
theorem land_two_fields (m s l s' l' : Nat) (h : s + l ≤ s') :
    m &&& (2 ^ s' * (2 ^ l' - 1) + 2 ^ s * (2 ^ l - 1)) =
      2 ^ s' * (m / 2 ^ s' % 2 ^ l') + 2 ^ s * (m / 2 ^ s % 2 ^ l) := by
  have hb : ∀ a, a < 2 ^ l → 2 ^ s * a < 2 ^ s' := fun a ha =>
    calc 2 ^ s * a < 2 ^ s * 2 ^ l := by gcongr
      _ = 2 ^ (s + l) := (pow_add ..).symm
      _ ≤ 2 ^ s' := Nat.pow_le_pow_right (by decide) h
  have hl : 0 < 2 ^ l := by positivity
  rw [Nat.two_pow_add_eq_or_of_lt (hb _ (by omega)), Nat.two_pow_add_eq_or_of_lt (hb _ (Nat.mod_lt _ hl)),
    Nat.and_or_distrib_left, land_field, land_field]

/-! ## The 24-bit layout -/

section Layout24
variable (op : Opcode) (n i x b p e : Bool) (t : BitVec 12)

/-- A 24-bit word as a number. -/
theorem layout24_toNat :
    (layout24 op n i x b p e t).toNat =
      op.toNat * 2 ^ 18 + n.toNat * 2 ^ 17 + i.toNat * 2 ^ 16 + x.toNat * 2 ^ 15 + b.toNat * 2 ^ 14 +
        p.toNat * 2 ^ 13 + e.toNat * 2 ^ 12 + t.toNat := by
  change (op ++ BitVec.ofBool n ++ BitVec.ofBool i ++ BitVec.ofBool x ++ BitVec.ofBool b ++
    BitVec.ofBool p ++ BitVec.ofBool e ++ t).toNat = _
  simp only [append_toNat_mul, BitVec.toNat_ofBool]
  omega

/-- Each field of a 24-bit word is read back from its place. -/
theorem layout24_fields :
    let v := layout24 op n i x b p e t
    v.extractLsb' 18 6 = op ∧ v.getLsbD 17 = n ∧ v.getLsbD 16 = i ∧ v.getLsbD 15 = x ∧ v.getLsbD 14 = b ∧
    v.getLsbD 13 = p ∧ v.getLsbD 12 = e ∧ v.extractLsb' 0 12 = t := by
  intro v
  have hv : v.toNat = _ := layout24_toNat op n i x b p e t
  have hn := Bool.toNat_le n
  have hi := Bool.toNat_le i
  have hx := Bool.toNat_le x
  have hb := Bool.toNat_le b
  have hp := Bool.toNat_le p
  have he := Bool.toNat_le e
  have ht := t.isLt
  refine ⟨extractLsb'_of_digits ?_, getLsbD_of_digit ?_, getLsbD_of_digit ?_, getLsbD_of_digit ?_,
    getLsbD_of_digit ?_, getLsbD_of_digit ?_, getLsbD_of_digit ?_, extractLsb'_of_digits ?_⟩ <;> omega

/-- A 24-bit word is its fields laid out. -/
theorem layout24_eta (v : BitVec 24) :
    layout24 (v.extractLsb' 18 6) (v.getLsbD 17) (v.getLsbD 16) (v.getLsbD 15) (v.getLsbD 14)
      (v.getLsbD 13) (v.getLsbD 12) (v.extractLsb' 0 12) = v := by
  apply BitVec.eq_of_toNat_eq
  have := v.isLt
  simp only [layout24_toNat, toNat_getLsbD, toNat_extractLsb']
  omega

/-- The mask of the rows that fix (n, i) and (p, e). -/
theorem layout24_land_pc :
    (layout24 op n i x b p e t).toNat &&& 208896 = 2 ^ 16 * (2 * n.toNat + i.toNat) + 2 ^ 12 * (2 * p.toNat + e.toNat) := by
  refine (land_two_fields _ 12 2 16 2 (by decide)).trans ?_
  have hn := Bool.toNat_le n
  have hi := Bool.toNat_le i
  have hx := Bool.toNat_le x
  have hb := Bool.toNat_le b
  have hp := Bool.toNat_le p
  have he := Bool.toNat_le e
  have ht := t.isLt
  rw [layout24_toNat]
  omega

/-- The mask of the rows that fix (n, i) and (b, p, e). -/
theorem layout24_land_flags :
    (layout24 op n i x b p e t).toNat &&& 225280 = 2 ^ 16 * (2 * n.toNat + i.toNat) + 2 ^ 12 * (4 * b.toNat + 2 * p.toNat + e.toNat) := by
  refine (land_two_fields _ 12 3 16 2 (by decide)).trans ?_
  have hn := Bool.toNat_le n
  have hi := Bool.toNat_le i
  have hx := Bool.toNat_le x
  have hb := Bool.toNat_le b
  have hp := Bool.toNat_le p
  have he := Bool.toNat_le e
  have ht := t.isLt
  rw [layout24_toNat]
  omega

/-- The mask of the rows that fix (n, i) and e. -/
theorem layout24_land_e :
    (layout24 op n i x b p e t).toNat &&& 200704 = 2 ^ 16 * (2 * n.toNat + i.toNat) + 2 ^ 12 * (e.toNat) := by
  refine (land_two_fields _ 12 1 16 2 (by decide)).trans ?_
  have hn := Bool.toNat_le n
  have hi := Bool.toNat_le i
  have hx := Bool.toNat_le x
  have hb := Bool.toNat_le b
  have hp := Bool.toNat_le p
  have he := Bool.toNat_le e
  have ht := t.isLt
  rw [layout24_toNat]
  omega

/-- The mask of the overlay row: the first byte. -/
theorem layout24_land_first :
    (layout24 op n i x b p e t).toNat &&& 16711680 = 2 ^ 16 * (4 * op.toNat + 2 * n.toNat + i.toNat) := by
  refine (land_field _ 16 8).trans ?_
  have hn := Bool.toNat_le n
  have hi := Bool.toNat_le i
  have hx := Bool.toNat_le x
  have hb := Bool.toNat_le b
  have hp := Bool.toNat_le p
  have he := Bool.toNat_le e
  have ht := t.isLt
  have ho := op.isLt
  rw [layout24_toNat]
  omega

end Layout24

/-! ## The 32-bit layout -/

section Layout32
variable (op : Opcode) (n i x b p e : Bool) (t : BitVec 20)

/-- A 32-bit word as a number. -/
theorem layout32_toNat :
    (layout32 op n i x b p e t).toNat =
      op.toNat * 2 ^ 26 + n.toNat * 2 ^ 25 + i.toNat * 2 ^ 24 + x.toNat * 2 ^ 23 + b.toNat * 2 ^ 22 +
        p.toNat * 2 ^ 21 + e.toNat * 2 ^ 20 + t.toNat := by
  change (op ++ BitVec.ofBool n ++ BitVec.ofBool i ++ BitVec.ofBool x ++ BitVec.ofBool b ++
    BitVec.ofBool p ++ BitVec.ofBool e ++ t).toNat = _
  simp only [append_toNat_mul, BitVec.toNat_ofBool]
  omega

/-- Each field of a 32-bit word is read back from its place. -/
theorem layout32_fields :
    let v := layout32 op n i x b p e t
    v.extractLsb' 26 6 = op ∧ v.getLsbD 25 = n ∧ v.getLsbD 24 = i ∧ v.getLsbD 23 = x ∧ v.getLsbD 22 = b ∧
    v.getLsbD 21 = p ∧ v.getLsbD 20 = e ∧ v.extractLsb' 0 20 = t := by
  intro v
  have hv : v.toNat = _ := layout32_toNat op n i x b p e t
  have hn := Bool.toNat_le n
  have hi := Bool.toNat_le i
  have hx := Bool.toNat_le x
  have hb := Bool.toNat_le b
  have hp := Bool.toNat_le p
  have he := Bool.toNat_le e
  have ht := t.isLt
  refine ⟨extractLsb'_of_digits ?_, getLsbD_of_digit ?_, getLsbD_of_digit ?_, getLsbD_of_digit ?_,
    getLsbD_of_digit ?_, getLsbD_of_digit ?_, getLsbD_of_digit ?_, extractLsb'_of_digits ?_⟩ <;> omega

/-- A 32-bit word is its fields laid out. -/
theorem layout32_eta (v : BitVec 32) :
    layout32 (v.extractLsb' 26 6) (v.getLsbD 25) (v.getLsbD 24) (v.getLsbD 23) (v.getLsbD 22)
      (v.getLsbD 21) (v.getLsbD 20) (v.extractLsb' 0 20) = v := by
  apply BitVec.eq_of_toNat_eq
  have := v.isLt
  simp only [layout32_toNat, toNat_getLsbD, toNat_extractLsb']
  omega

/-- The mask of the rows that fix (n, i) and (p, e). -/
theorem layout32_land_pc :
    (layout32 op n i x b p e t).toNat &&& 53477376 = 2 ^ 24 * (2 * n.toNat + i.toNat) + 2 ^ 20 * (2 * p.toNat + e.toNat) := by
  refine (land_two_fields _ 20 2 24 2 (by decide)).trans ?_
  have hn := Bool.toNat_le n
  have hi := Bool.toNat_le i
  have hx := Bool.toNat_le x
  have hb := Bool.toNat_le b
  have hp := Bool.toNat_le p
  have he := Bool.toNat_le e
  have ht := t.isLt
  rw [layout32_toNat]
  omega

/-- The mask of the rows that fix (n, i) and (b, p, e). -/
theorem layout32_land_flags :
    (layout32 op n i x b p e t).toNat &&& 57671680 = 2 ^ 24 * (2 * n.toNat + i.toNat) + 2 ^ 20 * (4 * b.toNat + 2 * p.toNat + e.toNat) := by
  refine (land_two_fields _ 20 3 24 2 (by decide)).trans ?_
  have hn := Bool.toNat_le n
  have hi := Bool.toNat_le i
  have hx := Bool.toNat_le x
  have hb := Bool.toNat_le b
  have hp := Bool.toNat_le p
  have he := Bool.toNat_le e
  have ht := t.isLt
  rw [layout32_toNat]
  omega

/-- The mask of the rows that fix (n, i) and e. -/
theorem layout32_land_e :
    (layout32 op n i x b p e t).toNat &&& 51380224 = 2 ^ 24 * (2 * n.toNat + i.toNat) + 2 ^ 20 * (e.toNat) := by
  refine (land_two_fields _ 20 1 24 2 (by decide)).trans ?_
  have hn := Bool.toNat_le n
  have hi := Bool.toNat_le i
  have hx := Bool.toNat_le x
  have hb := Bool.toNat_le b
  have hp := Bool.toNat_le p
  have he := Bool.toNat_le e
  have ht := t.isLt
  rw [layout32_toNat]
  omega

/-- The mask of the overlay row: the first byte. -/
theorem layout32_land_first :
    (layout32 op n i x b p e t).toNat &&& 4278190080 = 2 ^ 24 * (4 * op.toNat + 2 * n.toNat + i.toNat) := by
  refine (land_field _ 24 8).trans ?_
  have hn := Bool.toNat_le n
  have hi := Bool.toNat_le i
  have hx := Bool.toNat_le x
  have hb := Bool.toNat_le b
  have hp := Bool.toNat_le p
  have he := Bool.toNat_le e
  have ht := t.isLt
  have ho := op.isLt
  rw [layout32_toNat]
  omega

end Layout32

/-- The displacement and the ignored byte of a long Format 3 word are read back from its twenty bits. -/
theorem longTail_fields (d : BitVec 12) (z : Byte) :
    (longTail d z).extractLsb' 8 12 = d ∧ (longTail d z).extractLsb' 0 8 = z := by
  have h : (longTail d z).toNat = d.toNat * 2 ^ 8 + z.toNat := append_toNat_mul d z
  have hd := d.isLt
  have hz := z.isLt
  exact ⟨extractLsb'_of_digits (by omega), extractLsb'_of_digits (by omega)⟩

/-- Twenty bits are a displacement and an ignored byte. -/
theorem longTail_eta (t : BitVec 20) : longTail (t.extractLsb' 8 12) (t.extractLsb' 0 8) = t := by
  apply BitVec.eq_of_toNat_eq
  have := t.isLt
  refine (append_toNat_mul (t.extractLsb' 8 12) (t.extractLsb' 0 8)).trans ?_
  simp only [toNat_extractLsb']
  omega

/-- The displacement and the ignored byte of a long word lie in its twenty bits. -/
theorem extract_longTail (v : BitVec 32) :
    v.extractLsb' 8 12 = (v.extractLsb' 0 20).extractLsb' 8 12 ∧
    v.extractLsb' 0 8 = (v.extractLsb' 0 20).extractLsb' 0 8 := by
  constructor <;>
  · apply BitVec.eq_of_toNat_eq
    simp only [toNat_extractLsb']
    omega

/-! ## Decoding a laid-out word -/

theorem decode_layout24 (op : Opcode) (n i x b p e : Bool) (t : BitVec 12) :
    decode (.w24 (layout24 op n i x b p e t)) =
      if e then shortFormat4Class op n i x b p t else format3Class op n i x b p t := by
  obtain ⟨ho, hn, hi, hx, hb, hp, he, ht⟩ := layout24_fields op n i x b p e t
  simp only [decode, ho, hn, hi, hx, hb, hp, he, ht]

theorem decode_layout32 (op : Opcode) (n i x b p e : Bool) (t : BitVec 20) :
    decode (.w32 (layout32 op n i x b p e t)) =
      if e then format4Class op n i x b p t
      else longFormat3Class op n i x b p (t.extractLsb' 8 12) (t.extractLsb' 0 8) := by
  obtain ⟨ho, hn, hi, hx, hb, hp, he, ht⟩ := layout32_fields op n i x b p e t
  obtain ⟨hd, hz⟩ := extract_longTail (layout32 op n i x b p e t)
  rw [ht] at hd hz
  simp only [decode, ho, hn, hi, hx, hb, hp, he, ht, hd, hz]

end Sys2Proof
end

