-- ==== Sys2Proof/Laws/Operands.lean ====
section
/-! SUPPORT. What each operand form is, once (42_target_resolver.md R71, R77, R78). -/

namespace Sys2Proof.Machine

/-- The signed displacement is the field read as a two's-complement number. -/
theorem signedDisp_eq_toInt (d : BitVec 12) : signedDisp d = d.toInt := by
  unfold signedDisp
  rw [BitVec.toInt_eq_msb_cond, BitVec.msb_eq_getLsbD_last]
  simp

theorem signedDisp_bounds (d : BitVec 12) : -2048 ≤ signedDisp d ∧ signedDisp d < 2048 := by
  rw [signedDisp_eq_toInt, BitVec.toInt_eq_toNat_cond]
  have := d.isLt
  split <;> omega

@[simp] theorem toNat_toAddr (x : Int) : (toAddr x).toNat = (x % 2 ^ 20).toNat :=
  BitVec.toNat_ofInt x

theorem truncatedTarget_eq (t : BitVec 12) : truncatedTarget t = BitVec.ofNat 20 t.toNat := by
  apply BitVec.eq_of_toNat_eq
  simp [truncatedTarget]

theorem zeroFilledTarget_eq (t : BitVec 12) : zeroFilledTarget t = BitVec.ofNat 20 (t.toNat * 256) := by
  apply BitVec.eq_of_toNat_eq
  have := t.isLt
  change (t ++ 0x00#8).toNat = _
  rw [BitVec.toNat_append, BitVec.toNat_ofNat]
  simp [Nat.shiftLeft_eq]
  omega

end Sys2Proof.Machine
end

