-- ==== Sys2Proof/Laws/State.lean ====
section
/-! SUPPORT. One lemma per field per update of State, true by rfl, so that no later proof unfolds an update. -/

namespace Sys2Proof.Machine

section EndWith
variable (s : State) (o : TxEnd)

@[simp] theorem State.endWith_out : (s.endWith o).out = o := rfl
@[simp] theorem State.endWith_cfg : (s.endWith o).cfg = s.cfg := rfl
@[simp] theorem State.endWith_input : (s.endWith o).input = s.input := rfl
@[simp] theorem State.endWith_pc : (s.endWith o).pc = s.pc := rfl
@[simp] theorem State.endWith_base : (s.endWith o).base = s.base := rfl
@[simp] theorem State.endWith_freeIdx : (s.endWith o).freeIdx = s.freeIdx + 1 := rfl

end EndWith

section Drive
variable (s : State) (t : Transaction)

@[simp] theorem State.drive_input : (s.drive t).input = t.input := rfl
@[simp] theorem State.drive_pc : (s.drive t).pc = t.pc := rfl
@[simp] theorem State.drive_base : (s.drive t).base = t.base := rfl
@[simp] theorem State.drive_cfg : (s.drive t).cfg = s.cfg := rfl
@[simp] theorem State.drive_out : (s.drive t).out = s.out := rfl
@[simp] theorem State.drive_freeIdx : (s.drive t).freeIdx = s.freeIdx := rfl

end Drive

section WithFetchWord
variable (s : State) (nbits w : Nat)

/-- Driving a table word changes the instruction input and nothing else. -/
theorem State.withFetchWord_frame :
    (s.withFetchWord nbits w).cfg = s.cfg ∧ (s.withFetchWord nbits w).pc = s.pc ∧
    (s.withFetchWord nbits w).base = s.base ∧ (s.withFetchWord nbits w).out = s.out ∧
    (s.withFetchWord nbits w).freeIdx = s.freeIdx := by
  unfold State.withFetchWord
  split <;> [skip; split] <;> exact ⟨rfl, rfl, rfl, rfl, rfl⟩

@[simp] theorem State.withFetchWord_input_short :
    (s.withFetchWord 24 w).input = .word false (BitVec.ofNat 32 w) := rfl

@[simp] theorem State.withFetchWord_input_long :
    (s.withFetchWord 32 w).input = .word true (BitVec.ofNat 32 w) := rfl

end WithFetchWord

end Sys2Proof.Machine
end

