-- ==== Sys2Proof/Laws/Ops.lean ====
section
/-! SUPPORT. Everything the shared operations, an instruction and a step can do, once: each answers a next state that is
the old one with its transaction ended. -/

namespace Sys2Proof.Machine

theorem raiseError_eq (k : ErrorKind) (s : State) : raiseError k s = .next (s.endWith (.error k)) := rfl

theorem complete_eq (f : DecodedFields) (tail : Tail) (target : Addr) (s : State) :
    complete f tail target s = .next (s.endWith (.complete
      { toDecodedFields := f
        tailBits := tail
        targetAddress := target
        registerAValue := registerAValue s.cfg.opMatch f.opcodeBits f.n f.i target })) := rfl

/-- A short Format 4 word ends refused, truncated or zero-filled, by the policy (R77). -/
theorem shortFormat4_cases (op : Opcode) (n i x b p : Bool) (t : BitVec 12) (s : State) :
    let f := fieldsOf (.w24 (layout24 op n i x b p true t)) op n i x b p true
    (s.cfg.shortF4Policy = .refuse ∧ shortFormat4 op n i x b p t s = .next (s.endWith (.refused f))) ∨
    (s.cfg.shortF4Policy = .truncate12 ∧
      shortFormat4 op n i x b p t s = complete f (.disp t) (truncatedTarget t) s) ∨
    (s.cfg.shortF4Policy = .zeroFill ∧
      shortFormat4 op n i x b p t s = complete f (.addr (zeroFilledTarget t)) (zeroFilledTarget t) s) := by
  intro f
  unfold shortFormat4
  cases s.cfg.shortF4Policy
  · exact .inl ⟨rfl, rfl⟩
  · exact .inr (.inl ⟨rfl, rfl⟩)
  · exact .inr (.inr ⟨rfl, rfl⟩)

theorem shortFormat4_ends (op : Opcode) (n i x b p : Bool) (t : BitVec 12) (s : State) :
    ∃ o, shortFormat4 op n i x b p t s = .next (s.endWith o) := by
  rcases shortFormat4_cases op n i x b p t s with ⟨-, h⟩ | ⟨-, h⟩ | ⟨-, h⟩ <;> exact ⟨_, h⟩

/-- An instruction ends the transaction, whatever it is, and does nothing else. -/
theorem exec_ends (i : Instr) (s : State) : ∃ o, exec i s = .next (s.endWith o) := by
  cases i
  case f4sSimpleAbs => exact shortFormat4_ends ..
  case f4sIndirectAbs => exact shortFormat4_ends ..
  case f4sImmediateAbs => exact shortFormat4_ends ..
  case f4sInvalidAbs => exact shortFormat4_ends ..
  case romhitW24 x b p e t =>
    cases e
    · exact ⟨_, rfl⟩
    · exact shortFormat4_ends ..
  case romhitW32 x b p e t => cases e <;> exact ⟨_, rfl⟩
  all_goals exact ⟨_, rfl⟩

/-! ## A decoded word runs the shape of its class -/

theorem exec_format3Class (op : Opcode) (n i x b p : Bool) (d : BitVec 12) (s : State) :
    exec (format3Class op n i x b p d) s = format3 op n i x b p d (resolveFormat3 b p d s) s := by
  cases n <;> cases i <;> cases p <;> cases b <;> rfl

theorem exec_longFormat3Class (op : Opcode) (n i x b p : Bool) (d : BitVec 12) (z : Byte) (s : State) :
    exec (longFormat3Class op n i x b p d z) s = longFormat3 op n i x b p d z (resolveFormat3 b p d s) s := by
  cases n <;> cases i <;> cases p <;> cases b <;> rfl

theorem exec_format4Class (op : Opcode) (n i x b p : Bool) (a : BitVec 20) (s : State) :
    exec (format4Class op n i x b p a) s = format4 op n i x b p a s := by
  cases n <;> cases i <;> rfl

theorem exec_shortFormat4Class (op : Opcode) (n i x b p : Bool) (t : BitVec 12) (s : State) :
    exec (shortFormat4Class op n i x b p t) s = shortFormat4 op n i x b p t s := by
  cases n <;> cases i <;> rfl

/-- A 24-bit word runs as its e bit says, on the fields at their places. -/
theorem exec_decode_w24 (v : BitVec 24) (s : State) :
    exec (decode (.w24 v)) s =
      if v.getLsbD 12 then
        shortFormat4 (v.extractLsb' 18 6) (v.getLsbD 17) (v.getLsbD 16) (v.getLsbD 15) (v.getLsbD 14) (v.getLsbD 13)
          (v.extractLsb' 0 12) s
      else
        format3 (v.extractLsb' 18 6) (v.getLsbD 17) (v.getLsbD 16) (v.getLsbD 15) (v.getLsbD 14) (v.getLsbD 13)
          (v.extractLsb' 0 12) (resolveFormat3 (v.getLsbD 14) (v.getLsbD 13) (v.extractLsb' 0 12) s) s := by
  simp only [decode]
  cases v.getLsbD 12
  · exact exec_format3Class ..
  · exact exec_shortFormat4Class ..

/-- A 32-bit word runs as its e bit says, on the fields at their places. -/
theorem exec_decode_w32 (v : BitVec 32) (s : State) :
    exec (decode (.w32 v)) s =
      if v.getLsbD 20 then
        format4 (v.extractLsb' 26 6) (v.getLsbD 25) (v.getLsbD 24) (v.getLsbD 23) (v.getLsbD 22) (v.getLsbD 21)
          (v.extractLsb' 0 20) s
      else
        longFormat3 (v.extractLsb' 26 6) (v.getLsbD 25) (v.getLsbD 24) (v.getLsbD 23) (v.getLsbD 22) (v.getLsbD 21)
          (v.extractLsb' 8 12) (v.extractLsb' 0 8)
          (resolveFormat3 (v.getLsbD 22) (v.getLsbD 21) (v.extractLsb' 8 12) s) s := by
  simp only [decode]
  cases v.getLsbD 20
  · exact exec_longFormat3Class ..
  · exact exec_format4Class ..

/-! ## A step -/

/-- A step is an error of the front-end, or the decoded instruction (R117). -/
theorem step_cases (s : State) :
    (∃ k, frontEnd s.cfg s.input = .error k ∧ step s = .next (s.endWith (.error k))) ∨
    (∃ w, frontEnd s.cfg s.input = .word w ∧ step s = exec (decode w) s) := by
  unfold step
  cases h : frontEnd s.cfg s.input with
  | error k => exact .inl ⟨k, rfl, rfl⟩
  | word w => exact .inr ⟨w, rfl, rfl⟩

/-- A step ends the transaction, and does nothing else. -/
theorem step_ends (s : State) : ∃ o, step s = .next (s.endWith o) := by
  rcases step_cases s with ⟨k, -, h⟩ | ⟨w, -, h⟩
  · exact ⟨_, h⟩
  · rw [h]; exact exec_ends _ _

end Sys2Proof.Machine
end

