-- ==== Sys2Proof/Laws/PerInstr.lean ====
section
/-! SUPPORT. Statements made for every instruction, one lemma per constructor. -/

namespace Sys2Proof.Laws.TableRow

/-- The word of an instruction belongs to the instruction's own row of spec/opcode_table.json: its width is the row's,
and under the row's mask it is the row's match (R46). -/
def Statement (i : Instr) : Prop :=
  i.tableRow.Holds (encode i)

theorem f3SimplePc (op : Opcode) (x b : Bool) (d : BitVec 12) : Statement (.f3SimplePc op x b d) :=
  ⟨rfl, layout24_land_pc op true true x b true false d⟩

theorem f3SimpleBase (op : Opcode) (x : Bool) (d : BitVec 12) : Statement (.f3SimpleBase op x d) :=
  ⟨rfl, layout24_land_flags op true true x true false false d⟩

theorem f3SimpleDirect (op : Opcode) (x : Bool) (d : BitVec 12) : Statement (.f3SimpleDirect op x d) :=
  ⟨rfl, layout24_land_flags op true true x false false false d⟩

theorem f3IndirectPc (op : Opcode) (x b : Bool) (d : BitVec 12) : Statement (.f3IndirectPc op x b d) :=
  ⟨rfl, layout24_land_pc op true false x b true false d⟩

theorem f3IndirectBase (op : Opcode) (x : Bool) (d : BitVec 12) : Statement (.f3IndirectBase op x d) :=
  ⟨rfl, layout24_land_flags op true false x true false false d⟩

theorem f3IndirectDirect (op : Opcode) (x : Bool) (d : BitVec 12) : Statement (.f3IndirectDirect op x d) :=
  ⟨rfl, layout24_land_flags op true false x false false false d⟩

theorem f3ImmediatePc (op : Opcode) (x b : Bool) (d : BitVec 12) : Statement (.f3ImmediatePc op x b d) :=
  ⟨rfl, layout24_land_pc op false true x b true false d⟩

theorem f3ImmediateBase (op : Opcode) (x : Bool) (d : BitVec 12) : Statement (.f3ImmediateBase op x d) :=
  ⟨rfl, layout24_land_flags op false true x true false false d⟩

theorem f3ImmediateDirect (op : Opcode) (x : Bool) (d : BitVec 12) : Statement (.f3ImmediateDirect op x d) :=
  ⟨rfl, layout24_land_flags op false true x false false false d⟩

theorem f3InvalidPc (op : Opcode) (x b : Bool) (d : BitVec 12) : Statement (.f3InvalidPc op x b d) :=
  ⟨rfl, layout24_land_pc op false false x b true false d⟩

theorem f3InvalidBase (op : Opcode) (x : Bool) (d : BitVec 12) : Statement (.f3InvalidBase op x d) :=
  ⟨rfl, layout24_land_flags op false false x true false false d⟩

theorem f3InvalidDirect (op : Opcode) (x : Bool) (d : BitVec 12) : Statement (.f3InvalidDirect op x d) :=
  ⟨rfl, layout24_land_flags op false false x false false false d⟩

theorem f3lSimplePc (op : Opcode) (x b : Bool) (d : BitVec 12) (z : Byte) : Statement (.f3lSimplePc op x b d z) :=
  ⟨rfl, layout32_land_pc op true true x b true false (longTail d z)⟩

theorem f3lSimpleBase (op : Opcode) (x : Bool) (d : BitVec 12) (z : Byte) : Statement (.f3lSimpleBase op x d z) :=
  ⟨rfl, layout32_land_flags op true true x true false false (longTail d z)⟩

theorem f3lSimpleDirect (op : Opcode) (x : Bool) (d : BitVec 12) (z : Byte) : Statement (.f3lSimpleDirect op x d z) :=
  ⟨rfl, layout32_land_flags op true true x false false false (longTail d z)⟩

theorem f3lIndirectPc (op : Opcode) (x b : Bool) (d : BitVec 12) (z : Byte) : Statement (.f3lIndirectPc op x b d z) :=
  ⟨rfl, layout32_land_pc op true false x b true false (longTail d z)⟩

theorem f3lIndirectBase (op : Opcode) (x : Bool) (d : BitVec 12) (z : Byte) : Statement (.f3lIndirectBase op x d z) :=
  ⟨rfl, layout32_land_flags op true false x true false false (longTail d z)⟩

theorem f3lIndirectDirect (op : Opcode) (x : Bool) (d : BitVec 12) (z : Byte) : Statement (.f3lIndirectDirect op x d z) :=
  ⟨rfl, layout32_land_flags op true false x false false false (longTail d z)⟩

theorem f3lImmediatePc (op : Opcode) (x b : Bool) (d : BitVec 12) (z : Byte) : Statement (.f3lImmediatePc op x b d z) :=
  ⟨rfl, layout32_land_pc op false true x b true false (longTail d z)⟩

theorem f3lImmediateBase (op : Opcode) (x : Bool) (d : BitVec 12) (z : Byte) : Statement (.f3lImmediateBase op x d z) :=
  ⟨rfl, layout32_land_flags op false true x true false false (longTail d z)⟩

theorem f3lImmediateDirect (op : Opcode) (x : Bool) (d : BitVec 12) (z : Byte) : Statement (.f3lImmediateDirect op x d z) :=
  ⟨rfl, layout32_land_flags op false true x false false false (longTail d z)⟩

theorem f3lInvalidPc (op : Opcode) (x b : Bool) (d : BitVec 12) (z : Byte) : Statement (.f3lInvalidPc op x b d z) :=
  ⟨rfl, layout32_land_pc op false false x b true false (longTail d z)⟩

theorem f3lInvalidBase (op : Opcode) (x : Bool) (d : BitVec 12) (z : Byte) : Statement (.f3lInvalidBase op x d z) :=
  ⟨rfl, layout32_land_flags op false false x true false false (longTail d z)⟩

theorem f3lInvalidDirect (op : Opcode) (x : Bool) (d : BitVec 12) (z : Byte) : Statement (.f3lInvalidDirect op x d z) :=
  ⟨rfl, layout32_land_flags op false false x false false false (longTail d z)⟩

theorem f4SimpleAbs (op : Opcode) (x b p : Bool) (a : BitVec 20) : Statement (.f4SimpleAbs op x b p a) :=
  ⟨rfl, layout32_land_e op true true x b p true a⟩

theorem f4IndirectAbs (op : Opcode) (x b p : Bool) (a : BitVec 20) : Statement (.f4IndirectAbs op x b p a) :=
  ⟨rfl, layout32_land_e op true false x b p true a⟩

theorem f4ImmediateAbs (op : Opcode) (x b p : Bool) (a : BitVec 20) : Statement (.f4ImmediateAbs op x b p a) :=
  ⟨rfl, layout32_land_e op false true x b p true a⟩

theorem f4InvalidAbs (op : Opcode) (x b p : Bool) (a : BitVec 20) : Statement (.f4InvalidAbs op x b p a) :=
  ⟨rfl, layout32_land_e op false false x b p true a⟩

theorem f4sSimpleAbs (op : Opcode) (x b p : Bool) (t : BitVec 12) : Statement (.f4sSimpleAbs op x b p t) :=
  ⟨rfl, layout24_land_e op true true x b p true t⟩

theorem f4sIndirectAbs (op : Opcode) (x b p : Bool) (t : BitVec 12) : Statement (.f4sIndirectAbs op x b p t) :=
  ⟨rfl, layout24_land_e op true false x b p true t⟩

theorem f4sImmediateAbs (op : Opcode) (x b p : Bool) (t : BitVec 12) : Statement (.f4sImmediateAbs op x b p t) :=
  ⟨rfl, layout24_land_e op false true x b p true t⟩

theorem f4sInvalidAbs (op : Opcode) (x b p : Bool) (t : BitVec 12) : Statement (.f4sInvalidAbs op x b p t) :=
  ⟨rfl, layout24_land_e op false false x b p true t⟩

theorem romhitW24 (x b p e : Bool) (t : BitVec 12) : Statement (.romhitW24 x b p e t) :=
  ⟨rfl, layout24_land_first 0 true true x b p e t⟩

theorem romhitW32 (x b p e : Bool) (t : BitVec 20) : Statement (.romhitW32 x b p e t) :=
  ⟨rfl, layout32_land_first 0 true true x b p e t⟩

end Sys2Proof.Laws.TableRow
end

