-- ==== Sys2Proof/Laws/Pipeline.lean ====
section
/-! SUPPORT. The extractor's integer slices (41_field_extract.md R70) as bit fields. -/

namespace Sys2Proof.Machine

theorem intBit_toNat {w : Nat} (v : BitVec w) (k : Nat) : intBit v.toNat k = v.getLsbD k := by
  rw [← BitVec.testBit_toNat, Nat.testBit_eq_decide_div_mod_eq]
  rfl

theorem ofNat_slice {w : Nat} (v : BitVec w) (lo n : Nat) :
    BitVec.ofNat n (v.toNat / 2 ^ lo % 2 ^ n) = v.extractLsb' lo n := by
  apply BitVec.eq_of_toNat_eq
  rw [toNat_extractLsb', BitVec.toNat_ofNat, Nat.mod_mod]

theorem extractFields_w24 (v : BitVec 24) :
    extractFields (.w24 v) =
      fieldsOf (.w24 v) (v.extractLsb' 18 6) (v.getLsbD 17) (v.getLsbD 16) (v.getLsbD 15) (v.getLsbD 14)
        (v.getLsbD 13) (v.getLsbD 12) := by
  simp only [extractFields, InstrWord.width, InstrWord.value, intBit_toNat, intSlice]
  rw [← ofNat_slice]

theorem extractFields_w32 (v : BitVec 32) :
    extractFields (.w32 v) =
      fieldsOf (.w32 v) (v.extractLsb' 26 6) (v.getLsbD 25) (v.getLsbD 24) (v.getLsbD 23) (v.getLsbD 22)
        (v.getLsbD 21) (v.getLsbD 20) := by
  simp only [extractFields, InstrWord.width, InstrWord.value, intBit_toNat, intSlice]
  rw [← ofNat_slice]

end Sys2Proof.Machine
end

