-- ==== Sys2Proof/Laws/Presentation.lean ====
section
/-! SUPPORT. What the printed texts are, once (44_host_presentation.md R94, R96). Cite descriptionText_eq where a proof
would rewrite with the definition: the equation of a definition that holds string literals is slow to make. -/

namespace Sys2Proof.Machine

theorem descriptionText_eq (f : DecodedFields) :
    descriptionText f = "SIC/XE, ".toList ++ AddressingMode.spelling f.addressingMode ++ ", ".toList ++
      RelativeMode.spelling f.relativeMode ++ ", Format ".toList ++ [Format.digit f.format] := by
  unfold descriptionText
  rfl

/-- A digit of `hexFormat` is zero exactly when its value is, so that dropping zeros drops leading zero digits. -/
theorem upperHexChar_eq_zero_iff (v : Nat) : upperHexChar (v % 16) = '0' ↔ v % 16 = 0 := by
  have all : ∀ d : Fin 16, upperHexChar d.val = '0' ↔ d.val = 0 := by decide
  exact all ⟨v % 16, Nat.mod_lt _ (by decide)⟩

end Sys2Proof.Machine
end

