-- ==== Sys2Proof/Tests/Slice0.lean ====
section
/-! SUPPORT. The model's own tests: decoding of words written out from the pattern strings of 30_encoding.md R46, one step
of each class with results from 95_test_vectors.md (or by hand from R73 to R77), the front-end vectors, the refusal of
ill-formed terms, and a witness for each statement's hypotheses. -/

namespace Sys2Proof.Tests

open Sys2Proof Sys2Proof.Machine

/-! ## Helpers -/

/-- A line of ASCII text. -/
def ascii (t : String) : List Byte :=
  t.toList.map fun c => BitVec.ofNat 8 c.toNat

/-- The reset machine with these inputs driven. -/
def driven (line : String) (pc base : RegWord) : State :=
  { State.reset with input := .text (ascii line), pc := pc, base := base }

/-- `driven` under another `SHORT_F4_POLICY`. -/
def drivenWith (policy : ShortF4Policy) (line : String) : State :=
  { driven line 0x3000 0 with cfg := { defaultConfig with shortF4Policy := policy } }

/-- The end a result leaves. -/
def endOfResult : StepResult → Option TxEnd
  | .next t => some t.out
  | .fault _ => none
  | .refused _ => none

/-- The labels, the target and the register-A value of a complete result. -/
def summary (r : StepResult) : Option (AddressingMode × RelativeMode × Nat × Option RegA) :=
  match endOfResult r with
  | some (.complete r) => some (r.addressingMode, r.relativeMode, r.targetAddress.toNat, r.registerAValue)
  | _ => none

/-- The labels and the e bit of a refused word. -/
def refusedSummary (r : StepResult) : Option (AddressingMode × RelativeMode × Bool) :=
  match endOfResult r with
  | some (.refused f) => some (f.addressingMode, f.relativeMode, f.e)
  | _ => none

/-! ## Well-formedness: an overlay row is not a class of its own (R46) -/

theorem test_wellFormed_refuses_romhitW24 : (Instr.romhitW24 false false true false 0x600).wellFormed = false := by
  decide

theorem test_wellFormed_refuses_romhitW32 : (Instr.romhitW32 false false false true 0x03600).wellFormed = false := by
  decide

theorem test_wellFormed_accepts_a_class : (Instr.f3SimplePc 0 false false 0x600).wellFormed = true := by decide

/-! ## Decoding: each class, its word written out from its pattern string -/

theorem test_decode_f3SimplePc :
    decode (.w24 0b101101_1_1_1_0_1_0_100000000101#24) = .f3SimplePc 0b101101 true false 0x805 := by decide

theorem test_decode_f3SimpleBase :
    decode (.w24 0b101101_1_1_1_1_0_0_100000000101#24) = .f3SimpleBase 0b101101 true 0x805 := by decide

theorem test_decode_f3SimpleDirect :
    decode (.w24 0b101101_1_1_1_0_0_0_100000000101#24) = .f3SimpleDirect 0b101101 true 0x805 := by decide

theorem test_decode_f3IndirectPc :
    decode (.w24 0b101101_1_0_1_0_1_0_100000000101#24) = .f3IndirectPc 0b101101 true false 0x805 := by decide

theorem test_decode_f3IndirectBase :
    decode (.w24 0b101101_1_0_1_1_0_0_100000000101#24) = .f3IndirectBase 0b101101 true 0x805 := by decide

theorem test_decode_f3IndirectDirect :
    decode (.w24 0b101101_1_0_1_0_0_0_100000000101#24) = .f3IndirectDirect 0b101101 true 0x805 := by decide

theorem test_decode_f3ImmediatePc :
    decode (.w24 0b101101_0_1_1_0_1_0_100000000101#24) = .f3ImmediatePc 0b101101 true false 0x805 := by decide

theorem test_decode_f3ImmediateBase :
    decode (.w24 0b101101_0_1_1_1_0_0_100000000101#24) = .f3ImmediateBase 0b101101 true 0x805 := by decide

theorem test_decode_f3ImmediateDirect :
    decode (.w24 0b101101_0_1_1_0_0_0_100000000101#24) = .f3ImmediateDirect 0b101101 true 0x805 := by decide

theorem test_decode_f3InvalidPc :
    decode (.w24 0b101101_0_0_1_0_1_0_100000000101#24) = .f3InvalidPc 0b101101 true false 0x805 := by decide

theorem test_decode_f3InvalidBase :
    decode (.w24 0b101101_0_0_1_1_0_0_100000000101#24) = .f3InvalidBase 0b101101 true 0x805 := by decide

theorem test_decode_f3InvalidDirect :
    decode (.w24 0b101101_0_0_1_0_0_0_100000000101#24) = .f3InvalidDirect 0b101101 true 0x805 := by decide

theorem test_decode_f3lSimplePc :
    decode (.w32 0b101101_1_1_1_0_1_0_100000000101_11000011#32) = .f3lSimplePc 0b101101 true false 0x805 0xC3 := by decide

theorem test_decode_f3lSimpleBase :
    decode (.w32 0b101101_1_1_1_1_0_0_100000000101_11000011#32) = .f3lSimpleBase 0b101101 true 0x805 0xC3 := by decide

theorem test_decode_f3lSimpleDirect :
    decode (.w32 0b101101_1_1_1_0_0_0_100000000101_11000011#32) = .f3lSimpleDirect 0b101101 true 0x805 0xC3 := by decide

theorem test_decode_f3lIndirectPc :
    decode (.w32 0b101101_1_0_1_0_1_0_100000000101_11000011#32) = .f3lIndirectPc 0b101101 true false 0x805 0xC3 := by decide

theorem test_decode_f3lIndirectBase :
    decode (.w32 0b101101_1_0_1_1_0_0_100000000101_11000011#32) = .f3lIndirectBase 0b101101 true 0x805 0xC3 := by decide

theorem test_decode_f3lIndirectDirect :
    decode (.w32 0b101101_1_0_1_0_0_0_100000000101_11000011#32) = .f3lIndirectDirect 0b101101 true 0x805 0xC3 := by decide

theorem test_decode_f3lImmediatePc :
    decode (.w32 0b101101_0_1_1_0_1_0_100000000101_11000011#32) = .f3lImmediatePc 0b101101 true false 0x805 0xC3 := by decide

theorem test_decode_f3lImmediateBase :
    decode (.w32 0b101101_0_1_1_1_0_0_100000000101_11000011#32) = .f3lImmediateBase 0b101101 true 0x805 0xC3 := by decide

theorem test_decode_f3lImmediateDirect :
    decode (.w32 0b101101_0_1_1_0_0_0_100000000101_11000011#32) = .f3lImmediateDirect 0b101101 true 0x805 0xC3 := by decide

theorem test_decode_f3lInvalidPc :
    decode (.w32 0b101101_0_0_1_0_1_0_100000000101_11000011#32) = .f3lInvalidPc 0b101101 true false 0x805 0xC3 := by decide

theorem test_decode_f3lInvalidBase :
    decode (.w32 0b101101_0_0_1_1_0_0_100000000101_11000011#32) = .f3lInvalidBase 0b101101 true 0x805 0xC3 := by decide

theorem test_decode_f3lInvalidDirect :
    decode (.w32 0b101101_0_0_1_0_0_0_100000000101_11000011#32) = .f3lInvalidDirect 0b101101 true 0x805 0xC3 := by decide

theorem test_decode_f4SimpleAbs :
    decode (.w32 0b101101_1_1_1_1_0_1_10000000000000000101#32) = .f4SimpleAbs 0b101101 true true false 0x80005 := by decide

theorem test_decode_f4IndirectAbs :
    decode (.w32 0b101101_1_0_1_1_0_1_10000000000000000101#32) = .f4IndirectAbs 0b101101 true true false 0x80005 := by decide

theorem test_decode_f4ImmediateAbs :
    decode (.w32 0b101101_0_1_1_1_0_1_10000000000000000101#32) = .f4ImmediateAbs 0b101101 true true false 0x80005 := by decide

theorem test_decode_f4InvalidAbs :
    decode (.w32 0b101101_0_0_1_1_0_1_10000000000000000101#32) = .f4InvalidAbs 0b101101 true true false 0x80005 := by decide

theorem test_decode_f4sSimpleAbs :
    decode (.w24 0b101101_1_1_1_1_0_1_100000000101#24) = .f4sSimpleAbs 0b101101 true true false 0x805 := by decide

theorem test_decode_f4sIndirectAbs :
    decode (.w24 0b101101_1_0_1_1_0_1_100000000101#24) = .f4sIndirectAbs 0b101101 true true false 0x805 := by decide

theorem test_decode_f4sImmediateAbs :
    decode (.w24 0b101101_0_1_1_1_0_1_100000000101#24) = .f4sImmediateAbs 0b101101 true true false 0x805 := by decide

theorem test_decode_f4sInvalidAbs :
    decode (.w24 0b101101_0_0_1_1_0_1_100000000101#24) = .f4sInvalidAbs 0b101101 true true false 0x805 := by decide

/-- An overlay word is a word of its SIMPLE class. -/
theorem test_decode_romhitW24 :
    decode (.w24 0b000000_1_1_0_0_1_0_011000000000#24) = .f3SimplePc 0 false false 0x600 := by decide

/-- An overlay word is a word of its SIMPLE class. -/
theorem test_decode_romhitW32 :
    decode (.w32 0b000000_1_1_1_0_1_1_00000011011000000000#32) = .f4SimpleAbs 0 true false true 0x03600 := by decide

/-- The bytes of a word stand most significant first (R27). -/
theorem test_decodeBytes_order :
    decodeBytes [0x4B#8, 0x10#8, 0x10#8, 0x36#8] = .instr (.f4SimpleAbs 0b010010 false false false 0x01036) := by decide

theorem test_decodeBytes_rejects_two_bytes : decodeBytes [0x03#8, 0x26#8] = .badByteCount 2 := by decide

theorem test_decodeTableWord_short : decodeTableWord 24 0x032000 = some (.f3SimplePc 0 false false 0) := by decide

theorem test_decodeTableWord_long : decodeTableWord 32 0x03100000 = some (.f4SimpleAbs 0 false false false 0) := by
  decide

/-! ## One step of each class -/

/-- 95 P1, Scenario 1. -/
theorem test_step_f3SimplePc :
    summary (step (driven "032600" 0x3000 0)) = some (.simple, .pcRelative, 0x3600, some 0x103000) := by decide

/-- 95 P8. -/
theorem test_step_f3SimplePc_second :
    summary (step (driven "0327FF" 0xFFFFF 0)) = some (.simple, .pcRelative, 0x7fe, none) := by decide

/-- 95 B2. -/
theorem test_step_f3SimpleBase :
    summary (step (driven "034600" 0x3000 0x3000)) = some (.simple, .baseRelative, 0x3600, some 0x103000) := by decide

/-- 95 B3. -/
theorem test_step_f3SimpleBase_second :
    summary (step (driven "034800" 0x3000 0)) = some (.simple, .baseRelative, 0xff800, none) := by decide

/-- 95 D3. -/
theorem test_step_f3SimpleDirect :
    summary (step (driven "030800" 0x3000 0x1000)) = some (.simple, .direct, 0xff800, none) := by decide

/-- 95 P15. -/
theorem test_step_f3IndirectPc :
    summary (step (driven "022600" 0x3000 0)) = some (.indirect, .pcRelative, 0x3600, none) := by decide

/-- R74 by hand. -/
theorem test_step_f3IndirectBase :
    summary (step (driven "024600" 0x3000 0x1000)) = some (.indirect, .baseRelative, 0x1600, none) := by decide

/-- R75 by hand. -/
theorem test_step_f3IndirectDirect :
    summary (step (driven "020FFF" 0x3000 0x1000)) = some (.indirect, .direct, 0xfffff, none) := by decide

/-- 95 P16. -/
theorem test_step_f3ImmediatePc :
    summary (step (driven "012600" 0x3000 0)) = some (.immediate, .pcRelative, 0x3600, none) := by decide

/-- R74 by hand. -/
theorem test_step_f3ImmediateBase :
    summary (step (driven "014FFF" 0x3000 0)) = some (.immediate, .baseRelative, 0xfffff, none) := by decide

/-- 95 D5. -/
theorem test_step_f3ImmediateDirect :
    summary (step (driven "010030" 0x3000 0)) = some (.immediate, .direct, 0x30, none) := by decide

/-- 95 S3. -/
theorem test_step_f3InvalidPc :
    summary (step (driven "002000" 0x3000 0)) = some (.invalidAddressing, .pcRelative, 0x3000, none) := by decide

/-- R74 by hand. -/
theorem test_step_f3InvalidBase :
    summary (step (driven "004800" 0x3000 0)) = some (.invalidAddressing, .baseRelative, 0xff800, none) := by decide

/-- 95 D6. -/
theorem test_step_f3InvalidDirect :
    summary (step (driven "000030" 0x3000 0)) = some (.invalidAddressing, .direct, 0x30, none) := by decide

/-- 95 I1. -/
theorem test_step_f3lSimplePc :
    summary (step (driven "03203600" 0x3000 0)) = some (.simple, .pcRelative, 0x3036, none) := by decide

/-- 95 I6. -/
theorem test_step_f3lSimplePc_second :
    summary (step (driven "03260000" 0x3000 0)) = some (.simple, .pcRelative, 0x3600, some 0x103000) := by decide

/-- R74, R88 by hand. -/
theorem test_step_f3lSimpleBase :
    summary (step (driven "034600FF" 0 0x3000)) = some (.simple, .baseRelative, 0x3600, some 0x103000) := by decide

/-- 95 I5. -/
theorem test_step_f3lSimpleDirect :
    summary (step (driven "03003600" 0x3000 0)) = some (.simple, .direct, 0x36, none) := by decide

/-- R73 by hand, as 95 I4. -/
theorem test_step_f3lIndirectPc :
    summary (step (driven "02280012" 0x3000 0)) = some (.indirect, .pcRelative, 0x2800, none) := by decide

/-- R74 by hand. -/
theorem test_step_f3lIndirectBase :
    summary (step (driven "02403600" 0x3000 0x1000)) = some (.indirect, .baseRelative, 0x1036, none) := by decide

/-- R75 by hand. -/
theorem test_step_f3lIndirectDirect :
    summary (step (driven "02080000" 0x3000 0)) = some (.indirect, .direct, 0xff800, none) := by decide

/-- R73 by hand, as 95 I3. -/
theorem test_step_f3lImmediatePc :
    summary (step (driven "0120FFFF" 0x3000 0)) = some (.immediate, .pcRelative, 0x30ff, none) := by decide

/-- R74 by hand. -/
theorem test_step_f3lImmediateBase :
    summary (step (driven "01403600" 0x3000 0xFFFFF)) = some (.immediate, .baseRelative, 0x35, none) := by decide

/-- R75 by hand. -/
theorem test_step_f3lImmediateDirect :
    summary (step (driven "01003600" 0x3000 0)) = some (.immediate, .direct, 0x36, none) := by decide

/-- R73 by hand. -/
theorem test_step_f3lInvalidPc :
    summary (step (driven "00200000" 0x3000 0)) = some (.invalidAddressing, .pcRelative, 0x3000, none) := by decide

/-- R74 by hand. -/
theorem test_step_f3lInvalidBase :
    summary (step (driven "00403600" 0x3000 0xFFFFFF)) = some (.invalidAddressing, .baseRelative, 0x35, none) := by decide

/-- 95 X2. -/
theorem test_step_f3lInvalidDirect :
    summary (step (driven "00000000" 0x3000 0)) = some (.invalidAddressing, .direct, 0x0, none) := by decide

/-- 95 F3. -/
theorem test_step_f4SimpleAbs :
    summary (step (driven "03703600" 0 0)) = some (.simple, .absoluteFormat4, 0x3600, some 0x103000) := by decide

/-- 95 F5. -/
theorem test_step_f4SimpleAbs_second :
    summary (step (driven "03113600" 0 0)) = some (.simple, .absoluteFormat4, 0x13600, none) := by decide

/-- 95 F8. -/
theorem test_step_f4IndirectAbs :
    summary (step (driven "02103600" 0x3000 0)) = some (.indirect, .absoluteFormat4, 0x3600, none) := by decide

/-- 95 F9. -/
theorem test_step_f4ImmediateAbs :
    summary (step (driven "01103600" 0x3000 0)) = some (.immediate, .absoluteFormat4, 0x3600, none) := by decide

/-- 95 F10. -/
theorem test_step_f4InvalidAbs :
    summary (step (driven "00103600" 0x3000 0)) = some (.invalidAddressing, .absoluteFormat4, 0x3600, none) := by decide

/-- 95 I7 (the label by hand). -/
theorem test_step_f4sSimpleAbs :
    refusedSummary (step (driven "031036" 0x3000 0)) = some (.simple, .absoluteFormat4, true) := by decide

/-- 95 I7 (the label by hand). -/
theorem test_step_f4sIndirectAbs :
    refusedSummary (step (driven "021036" 0x3000 0)) = some (.indirect, .absoluteFormat4, true) := by decide

/-- 95 I7 (the label by hand). -/
theorem test_step_f4sImmediateAbs :
    refusedSummary (step (driven "011036" 0x3000 0)) = some (.immediate, .absoluteFormat4, true) := by decide

/-- 95 I7 (the label by hand). -/
theorem test_step_f4sInvalidAbs :
    refusedSummary (step (driven "001036" 0x3000 0)) = some (.invalidAddressing, .absoluteFormat4, true) := by decide

/-- 95 I7, `truncate12`. -/
theorem test_step_f4sSimpleAbs_truncate12 :
    summary (step (drivenWith .truncate12 "031036")) = some (.simple, .absoluteFormat4, 0x00036, none) := by decide

/-- 95 I8, `zero_fill`. -/
theorem test_step_f4sSimpleAbs_zeroFill :
    summary (step (drivenWith .zeroFill "ffffff")) = some (.simple, .absoluteFormat4, 0xFFF00, none) := by decide

/-- 95 P10: a miss by one. -/
theorem test_exec_romhitW24 :
    summary (exec (.romhitW24 false false true false 0x600) (driven "" 0x3001 0)) =
      some (.simple, .pcRelative, 0x03601, none) := by decide

/-- 95 F2. -/
theorem test_exec_romhitW32 :
    summary (exec (.romhitW32 false false false true 0x03600) (driven "" 0 0)) =
      some (.simple, .absoluteFormat4, 0x03600, some 0x103000) := by decide

/-- 95 P18: opcode 000001 hits under `OPMATCH = six_bit` only. -/
theorem test_opMatch_readings :
    registerAValue .firstByte 0b000001 true true 0x03600 = none ∧
    registerAValue .sixBit 0b000001 true true 0x03600 = some 0x103000 ∧
    registerAValue .sixBit 0b000100 true true 0x03600 = none := by decide

/-! ## The front-end (95_test_vectors.md 2.1) -/

/-- N1 to N5, N7. -/
theorem test_frontEnd_accepts :
    frameText defaultConfig (ascii "  0X032600\n") = .word (.w24 0x032600) ∧
    frameText defaultConfig (ascii "0327FF") = .word (.w24 0x0327FF) ∧
    frameText defaultConfig (ascii "0x03103600") = .word (.w32 0x03103600) ∧
    normalize defaultConfig (ascii "\t4B101036\r\n") = .digits (ascii "4b101036") := by decide

/-- N6: leading zeros count. -/
theorem test_frontEnd_leading_zeros :
    frameText defaultConfig (ascii "00032600") = .word (.w32 0x00032600) := by decide

/-- N8 to N16. -/
theorem test_frontEnd_invalidLength :
    (["", "   ", "0x", "123", "0326", "0326000", "032600000", "0x1234", "12g"].all fun t =>
      decide (frameText defaultConfig (ascii t) = .error .invalidLength)) = true := by decide

/-- N17 to N25. -/
theorem test_frontEnd_invalidHexDigits :
    (["03260g", "03 260", "03 26 00", "0x0x0326", "0x0x032600", "+32600", "03_600", "0x 32600", "x32600"].all fun t =>
      decide (frameText defaultConfig (ascii t) = .error .invalidHexDigits)) = true := by decide

/-- N26: a byte of 0x80 or more is no digit. -/
theorem test_frontEnd_high_byte :
    frameText defaultConfig (ascii "03260" ++ [0xE9#8]) = .error .invalidHexDigits := by decide

/-- R50: a line longer than the buffer. -/
theorem test_frontEnd_maxChars :
    frameText { defaultConfig with maxChars := some 10 } (ascii "0x032600   ") = .error .invalidLength := by decide

/-- An error ends the transaction with its kind, and the ports say so (S2, R103, R104). -/
theorem test_step_error :
    endOfResult (step (driven "123" 0x3000 0)) = some (.error .invalidLength) ∧
    ((driven "" 0 0).endWith (.error .invalidHexDigits)).ports.err = 2 ∧
    ((driven "" 0 0).endWith (.error .invalidHexDigits)).ports.resultValid = false := by decide

/-! ## Views -/

/-- S1: the binary form. -/
theorem test_bits_scenario_one :
    (InstrWord.w24 0x032600).bits.map bitChar = "000000110010011000000000".toList := by decide

/-- 2.9 H2, H4: five digits above `0xFFFF`, at least four below. -/
theorem test_hexFormat :
    hexFormat 4 5 0xFF800 = "0xFF800".toList ∧ hexFormat 4 5 0x30 = "0x0030".toList ∧
    hexFormat 6 6 0x103000 = "0x103000".toList := by decide

/-- 2.9 H3. -/
theorem test_description_h3 :
    (match endOfResult (step (driven "00103600" 0x3000 0)) with
      | some (.complete r) => descriptionText r.toDecodedFields
      | _ => []) = "SIC/XE, InvalidAddressing, AbsoluteFormat4, Format 4".toList := by decide

/-- The ports of Scenario 1 (R20). -/
theorem test_ports_scenario_one :
    (match step (driven "032600" 0x3000 0) with
      | .next t => t.ports.bits_o == 0x032600#32 && t.ports.addrMode == 3#2 && t.ports.relMode == 1#2 &&
          t.ports.target == 0x03600#20 && t.ports.regAValid && t.ports.regA == 0x103000#24 && t.ports.consistent &&
          t.ports.resultValid
      | _ => false) = true := by decide

/-- The bytes of an enclosing system give the same result as the text. -/
theorem test_bytes_input :
    summary (step { State.reset with input := .bytes24 0x03 0x26 0x00 }) =
      some (.simple, .pcRelative, 0x03600, some 0x103000) := by decide

/-- The word the host drives runs on the next step. -/
theorem test_withFetchWord :
    summary (step (State.reset.withFetchWord 24 0x032600)) =
      some (.simple, .pcRelative, 0x03600, some 0x103000) := by decide

/-! ## Witnesses: each statement's hypotheses are met together -/

/-- ShortFormat4ClassesFollowPolicy, RomOverlayShortWordEnds: each policy is some state's. -/
theorem witness_each_policy :
    State.reset.cfg.shortF4Policy = .refuse ∧ (drivenWith .truncate12 "").cfg.shortF4Policy = .truncate12 ∧
    (drivenWith .zeroFill "").cfg.shortF4Policy = .zeroFill := by decide

/-- DecodeEncodeIsIdentity. -/
theorem witness_wellFormed : (Instr.f4sInvalidAbs 63 true true true 0xFFF).wellFormed = true := by decide

/-- ExactlyOneClassRowHoldsOfAWord: a class row that holds of a word. -/
theorem witness_row_holds :
    (⟨24, 208896, 204800⟩ : TableRow) ∈ classRows ∧ (⟨24, 208896, 204800⟩ : TableRow).Holds (.w24 0x032600) := by decide

/-- OverlayWordsDecodeToTheirClass. -/
theorem witness_overlay :
    (Instr.romhitW24 true true true true 0xFFF).isOverlay = true ∧
    (Instr.romhitW32 true true true false 0xFFFFF).isOverlay = true ∧
    (Instr.romhitW24 false false false false 0).tableRow.Holds (.w24 0x03FFFF) ∧
    (Instr.romhitW32 false false false false 0).tableRow.Holds (.w32 0x03FFFFFF) := by decide

/-- DeliveredBytesAreMostSignificantFirst: lengths that are no word. -/
theorem witness_other_lengths : ([] : List Byte).length ≠ 3 ∧ ([] : List Byte).length ≠ 4 := by decide

/-- BitsAreTheWordMostSignificantFirst, at both ends of the word. -/
theorem witness_bit_positions :
    0 < (InstrWord.w24 0).width ∧ 23 < (InstrWord.w24 0).width ∧ 31 < (InstrWord.w32 0).width := by decide

/-- ResultFieldsAreSlicesOfBits, RegisterAIsPresentExactlyOnARomHit, PortsShowTheResult: a complete result with `e = 0`,
and one with `e = 1` of 32 bits. -/
theorem witness_complete_results :
    State.reset.cfg.opMatch = .firstByte ∧
    (match step (driven "032600" 0x3000 0) with
      | .next t => match t.out with
        | .complete r => r.e == false && decide (r.tailBits = .disp 0x600) && r.registerAValue == some 0x103000
        | _ => false
      | _ => false) = true ∧
    (match step (driven "03103600" 0x3000 0) with
      | .next t => match t.out with
        | .complete r => r.e && r.word.width == 32 && decide (r.tailBits = .addr 0x03600)
        | _ => false
      | _ => false) = true := by decide

/-- PortsShowTheResult: a result of each relative mode, with the code R20 gives it (95 D1, P1, B1,
F2). -/
theorem witness_relMode_codes :
    (["030600", "032600", "034600", "03103600"].map fun t =>
      match step (driven t 0x3000 0x1000) with
      | .next u => some u.ports.relMode
      | _ => none) = [some 0#2, some 1#2, some 2#2, some 3#2] := by decide

/-- PortsShowTheResult, the 12-bit tail with `format4 = 1` (the model's choice of assumption log 31). -/
theorem witness_short_tail_port :
    (match step (drivenWith .truncate12 "031036") with
      | .next u => u.ports.format4 && u.ports.tail == 0x00036#20
      | _ => false) = true := by decide

/-- DirectOrNonSimpleWordsNeverHit: a Direct result, and one that is not Simple. -/
theorem witness_direct_and_nonsimple :
    summary (step (driven "030600" 0x3000 0)) = some (.simple, .direct, 0x00600, none) ∧
    summary (step (driven "022600" 0x3000 0)) = some (.indirect, .pcRelative, 0x03600, none) := by decide

/-- LowercaseAndHexMarkFollowTheirRules: the two ends of the capitals, the bytes beside them, and a text with no mark. -/
theorem witness_letters :
    lowerByte 0x41#8 = 0x61#8 ∧ lowerByte 0x5A#8 = 0x7A#8 ∧ lowerByte 0x40#8 = 0x40#8 ∧ lowerByte 0x5B#8 = 0x5B#8 ∧
    stripHexMark (ascii "0x0x12") = ascii "0x12" ∧ stripHexMark (ascii "x012") = ascii "x012" := by decide

/-- TrimRemovesTheLongestBlankEnds: a text with blanks at both ends and inside. -/
theorem witness_trim : trim defaultWs (ascii " \t0 1 \n") = ascii "0 1" := by decide

/-- NormalizeChecksLengthThenDigits, AcceptedTextIsTheWordsHexDigits, NormalizeIsIdempotent: no limit, whitespace
without hex digits, an accepted text, and a line that a buffer does not hold. -/
theorem witness_normalize :
    defaultConfig.maxChars = none ∧ (∀ c ∈ defaultConfig.ws, isHexDigit c = false) ∧
    normalize defaultConfig (ascii " 0X4B2FFA ") = .digits (ascii "4b2ffa") ∧
    ({ defaultConfig with maxChars := some 10 } : Config).maxChars = some 10 ∧ 10 < (ascii "0x032600   ").length := by
  decide

/-- NormalizeChecksLengthThenDigits (R50): a line of exactly the limit is as with no limit, one character more is too
long. -/
theorem witness_line_limit :
    (ascii "  0x032600").length = 10 ∧
    normalize { defaultConfig with maxChars := some 10 } (ascii "  0x032600") = .digits (ascii "032600") ∧
    normalize { defaultConfig with maxChars := some 9 } (ascii "  0x032600") = .error .invalidLength := by decide

/-- EveryWordIsReachedByItsTexts: blanks on both sides, a capital mark, capital digits. -/
theorem witness_dressed_text :
    defaultConfig.maxChars = none ∧ defaultConfig.ws = defaultWs ∧ (∀ c ∈ ascii " \t", c ∈ defaultConfig.ws) ∧
    (∀ c ∈ ascii "\r\n", c ∈ defaultConfig.ws) ∧ ascii "0X" = [0x30#8, 0x58#8] ∧
    (ascii "4B2FFA").map lowerByte = hexDigits (.w24 0x4B2FFA) := by decide

/-- StepRunsTheDecodedInstruction, TransactionEndsInOneOfThreeWays, ErrorsComeFromTextOnly: each end occurs. -/
theorem witness_each_end :
    frontEnd defaultConfig (driven "032600" 0 0).input = .word (.w24 0x032600) ∧
    frontEnd defaultConfig (driven "123" 0 0).input = .error .invalidLength ∧
    frontEnd defaultConfig (driven "03260g" 0 0).input = .error .invalidHexDigits ∧
    (endOfResult (step (driven "031036" 0x3000 0)) matches some (.refused _)) = true := by decide

/-- TableWordRunsOnTheNextStep, at both widths, the greatest word of each. -/
theorem witness_table_word :
    0xFFFFFF < 2 ^ 24 ∧ decodeTableWord 24 0xFFFFFF = some (.f4sSimpleAbs 63 true true true 0xFFF) ∧
    0xFFFFFFFF < 2 ^ 32 ∧ decodeTableWord 32 0xFFFFFFFF = some (.f4SimpleAbs 63 true true true 0xFFFFF) := by decide

/-- StepLeavesInputsAndParameters, IdenticalArgumentsGiveIdenticalEnds, EveryStepSettlesTheOutputs,
InertParametersChangeNoEnd: a step that answers a next state, from states that differ in the last end only. -/
theorem witness_steps :
    (∃ t, step State.reset = .next t) ∧ (∃ i t, exec i State.reset = .next t) ∧
    ∃ t, step (State.reset.endWith (.error .invalidHexDigits)) = .next t :=
  ⟨⟨_, rfl⟩, ⟨.f3SimplePc 0 false false 0, _, rfl⟩, _, rfl⟩

/-- TransactionOrderDoesNotMatter: a list in two orders. -/
theorem witness_orders :
    ([⟨.text (ascii "123"), 0, 0⟩, ⟨.text (ascii "032600"), 0x3000, 0⟩] : List Transaction).Perm
      [⟨.text (ascii "032600"), 0x3000, 0⟩, ⟨.text (ascii "123"), 0, 0⟩] := by decide

/-- OnlyLowTwentyBitsOfInputsMatter (95 P11): two program counters and two bases equal modulo 2^20. -/
theorem witness_low_twenty_bits :
    (0x3000#24 : RegWord).toNat % 2 ^ 20 = (0x103000#24 : RegWord).toNat % 2 ^ 20 ∧
    (0x000000#24 : RegWord).toNat % 2 ^ 20 = (0xF00000#24 : RegWord).toNat % 2 ^ 20 ∧
    summary (step (driven "032600" 0x103000 0)) = summary (step (driven "032600" 0x3000 0xF00000)) := by decide

/-- UnreadInputsHaveNoEffect: a PC-relative word with two bases, and a base-relative one with two program counters. -/
theorem witness_unread_inputs :
    summary (step (driven "032600" 0x3000 0)) = summary (step (driven "032600" 0x3000 0x1000)) ∧
    summary (step (driven "034600" 0 0x1000)) = summary (step (driven "034600" 0x3000 0x1000)) ∧
    relativeMode (extractFields (.w24 0x032600)).e (extractFields (.w24 0x032600)).p
      (extractFields (.w24 0x032600)).b = .pcRelative ∧
    relativeMode (extractFields (.w24 0x034600)).e (extractFields (.w24 0x034600)).p
      (extractFields (.w24 0x034600)).b = .baseRelative := by decide

/-- PcRelativeWinsOverBase, FormatFourIgnoresBaseAndPcFlags, LastByteOfLongFormatThreeIsIgnored: words with those
flags (95 P13, F3, I3). -/
theorem witness_flags :
    (extractFields (.w24 0x036600)).e = false ∧ (extractFields (.w24 0x036600)).p = true ∧
    (extractFields (.w32 0x03703600)).e = true ∧ (0x0320FFFF#32).getLsbD 20 = false := by decide

/-- OpcodesOtherThanZeroAreTreatedAlike (95 P18 and P20: opcodes 000001 and 000100). -/
theorem witness_opcodes :
    State.reset.cfg.opMatch = .firstByte ∧ (extractFields (.w24 0x072600)).opcodeBits ≠ 0 ∧
    (extractFields (.w24 0x072600)).opcodeBits ^^^ 0b000101#6 ≠ 0 := by decide

/-- PortsIgnoreTheTopByteOfShortWords. -/
theorem witness_top_byte :
    (0xFF032600#32).toNat % 2 ^ 24 = (0x00032600#32).toNat % 2 ^ 24 ∧
    summary (step { State.reset with input := .word false 0xFF032600#32 }) =
      some (.simple, .pcRelative, 0x03600, some 0x103000) ∧
    summary (step { State.reset with input := .word false 0x00032600#32 }) =
      some (.simple, .pcRelative, 0x03600, some 0x103000) := by decide

/-- SignedDisplacementIsTwosComplement, DirectClassesResolve: both signs, where they meet (S5). -/
theorem witness_signs :
    signedDisp 0x800#12 = -2048 ∧ signedDisp 0x7FF#12 = 2047 ∧ signedDisp 0xFFF#12 = -1 ∧
    (directTarget 0x7FF#12).toNat = 0x007FF ∧ (directTarget 0x800#12).toNat = 0xFF800 := by decide

/-- RomHasOneEntry: the key, and its neighbours. -/
theorem witness_rom_keys :
    romLookup 0x03600#20 = some 0x103000#24 ∧ romLookup 0x03601#20 = none ∧ romLookup 0x13600#20 = none := by decide

/-- ErrorCodesOnThePorts, RefusedWordShowsItsDefinedFields: states with each end. -/
theorem witness_ends_on_ports :
    State.reset.out = .error .invalidLength ∧
    (State.reset.endWith (.error .invalidHexDigits)).out = .error .invalidHexDigits ∧
    (match step (driven "ffffff" 0 0) with
      | .next t => t.ports.consistent == false && t.ports.relMode == 3#2 && t.ports.bits_o == 0x00FFFFFF#32
      | _ => false) = true := by decide

/-- EveryStepKeepsSafety: reset is safe, and so is the state after a result. -/
theorem witness_safe : State.reset.Safe ∧ ∃ t, step State.reset = .next t := ⟨trivial, _, rfl⟩

/-- HostPrintsTheResultInOrder, HostPrintsOneLineOnFailure: a line that decodes, with and without a register-A value,
and one that does not. -/
theorem witness_host_lines :
    frameText defaultConfig (ascii "032600") = .word (.w24 0x032600) ∧
    (match reference defaultConfig (.w24 0x032600) 0x3000 0 with
      | .complete r => r.registerAValue == some 0x103000#24
      | _ => false) = true ∧
    (match reference defaultConfig (.w24 0x030800) 0x3000 0 with
      | .complete r => r.registerAValue == none
      | _ => false) = true ∧
    frameText defaultConfig (ascii "123") = .error .invalidLength := by decide

/-- HostPrintsTheResultInOrder: the spellings of R94 that Scenario 1 does not show, and the label of R95 for Format 4. -/
theorem witness_spellings :
    (["024600", "010600", "00103600"].map fun t =>
      match endOfResult (step (driven t 0x3000 0)) with
      | some (.complete r) => (descriptionText r.toDecodedFields, tailLabel r.format)
      | _ => ([], [])) =
    [("SIC/XE, Indirect, Base-relative, Format 3".toList, "disp".toList),
     ("SIC/XE, Immediate, Direct, Format 3".toList, "disp".toList),
     ("SIC/XE, InvalidAddressing, AbsoluteFormat4, Format 4".toList, "addr".toList)] := by decide

/-- PrintedNumbersHaveTheirWidths: both sides of `0xFFFF`, where its two cases meet, and both ends. -/
theorem witness_hex_widths :
    hexFormat 4 5 0xFFFF = "0xFFFF".toList ∧ hexFormat 4 5 0x10000 = "0x10000".toList ∧
    hexFormat 4 5 0 = "0x0000".toList ∧ hexFormat 4 5 0xFFFFF = "0xFFFFF".toList ∧
    hexFormat 6 6 0 = "0x000000".toList ∧ hexFormat 6 6 0xABCDEF = "0xABCDEF".toList := by decide

end Sys2Proof.Tests
end

section
/-! The word as a string of binary digits (R59): one equation for `InstrWord.bits` at both widths, and the value of
the leading digits of such a string. -/

namespace Sys2Proof

theorem InstrWord.value_lt_two_pow_width (w : InstrWord) : w.value < 2 ^ w.width := by
  cases w with
  | w24 v => exact v.isLt
  | w32 v => exact v.isLt

theorem InstrWord.bits_eq_map_testBit (w : InstrWord) :
    w.bits = (List.range w.width).map fun k => w.value.testBit (w.width - 1 - k) := by
  cases w with
  | w24 v => rfl
  | w32 v => rfl

theorem bitsValue_concat (l : List Bool) (c : Bool) : bitsValue (l ++ [c]) = 2 * bitsValue l + c.toNat :=
  List.foldl_append

/-- Shifting one place less to the right uncovers one more binary digit. -/
theorem div_two_pow_eq_double_add_testBit (v m : Nat) :
    v / 2 ^ m = 2 * (v / 2 ^ (m + 1)) + (v.testBit m).toNat := by
  rw [Nat.toNat_testBit, pow_succ, ← Nat.div_div_eq_div_mul, Nat.div_add_mod]

/-- A leading run of digits is a shift to the right, so `bitsValue` can be followed digit by digit. -/
theorem bitsValue_leading_digits {v W : Nat} (hv : v < 2 ^ W) (n : Nat) (hn : n ≤ W) :
    bitsValue ((List.range n).map fun k => v.testBit (W - 1 - k)) = v / 2 ^ (W - n) := by
  induction n with
  | zero => exact (Nat.div_eq_of_lt hv).symm
  | succ n ih =>
    have hshift : W - n = W - (n + 1) + 1 := by omega
    have hdigit : W - 1 - n = W - (n + 1) := by omega
    rw [List.range_succ, List.map_append, List.map_singleton, bitsValue_concat, ih (by omega), hshift, hdigit,
      ← div_two_pow_eq_double_add_testBit]

@[simp] theorem InstrWord.length_bits (w : InstrWord) : w.bits.length = w.width := by
  simp [bits_eq_map_testBit]

theorem InstrWord.getElem?_bits (w : InstrWord) {k : Nat} (hk : k < w.width) :
    w.bits[k]? = some (w.value.testBit (w.width - 1 - k)) := by
  simp [bits_eq_map_testBit, hk]

@[simp] theorem InstrWord.bitsValue_bits (w : InstrWord) : bitsValue w.bits = w.value := by
  rw [bits_eq_map_testBit, bitsValue_leading_digits w.value_lt_two_pow_width w.width le_rfl, Nat.sub_self, pow_zero,
    Nat.div_one]

/-- Settles O14: the digits of `bits` are the bits of the word from `W - 1` down, and its `W` leading digits denote
the whole word. -/
theorem bitsAreTheWordMostSignificantFirst : Obligations.BitsAreTheWordMostSignificantFirst :=
  fun w => ⟨w.length_bits, w.bitsValue_bits, fun _ hk => w.getElem?_bits hk⟩

end Sys2Proof
end

section
/-! How the classes resolve their target (R73 to R76). An instruction of a class built from its flags ends in the record
those flags give; a class of the table is one choice of flags. -/

namespace Sys2Proof.Machine

theorem encode_format3Class (op : Opcode) (n i x b p : Bool) (d : BitVec 12) :
    encode (format3Class op n i x b p d) = .w24 (layout24 op n i x b p false d) := by
  cases n <;> cases i <;> cases p <;> cases b <;> rfl

theorem encode_longFormat3Class (op : Opcode) (n i x b p : Bool) (d : BitVec 12) (z : Byte) :
    encode (longFormat3Class op n i x b p d z) = .w32 (layout32 op n i x b p false (longTail d z)) := by
  cases n <;> cases i <;> cases p <;> cases b <;> rfl

theorem encode_format4Class (op : Opcode) (n i x b p : Bool) (a : BitVec 20) :
    encode (format4Class op n i x b p a) = .w32 (layout32 op n i x b p true a) := by
  cases n <;> cases i <;> rfl

theorem endsWith_of_exec_eq {i : Instr} {s : State} {o : TxEnd} (h : exec i s = .next (s.endWith o)) :
    EndsWith i s o :=
  ⟨s.endWith o, h, s.endWith_out o, s.endWith_cfg o, s.endWith_input o, s.endWith_pc o, s.endWith_base o⟩

/-! ## The end of a class, by its flags -/

section Ends
variable {b p : Bool} {d : BitVec 12} {s : State} {target : Addr}

theorem format3Class_ends (htarget : resolveFormat3 b p d s = target) (op : Opcode) (x n i : Bool) :
    DispClassEnds s (format3Class op n i x b p d) op n i x b p (addressingMode n i) (relativeMode false p b) d
      target := by
  apply endsWith_of_exec_eq
  rw [exec_format3Class, encode_format3Class, htarget]
  exact complete_eq ..

theorem longFormat3Class_ends (htarget : resolveFormat3 b p d s = target) (op : Opcode) (x : Bool) (z : Byte)
    (n i : Bool) :
    DispClassEnds s (longFormat3Class op n i x b p d z) op n i x b p (addressingMode n i) (relativeMode false p b) d
      target := by
  apply endsWith_of_exec_eq
  rw [exec_longFormat3Class, encode_longFormat3Class, htarget]
  exact complete_eq ..

end Ends

theorem format4Class_ends (op : Opcode) (n i x b p : Bool) (a : BitVec 20) (s : State) :
    AbsClassEnds s (format4Class op n i x b p a) op n i x b p (addressingMode n i) (.addr a) a := by
  apply endsWith_of_exec_eq
  rw [exec_format4Class, encode_format4Class]
  exact complete_eq ..

/-! ## The target, with the displacement read as a two's-complement number (R71) -/

theorem resolveFormat3_p (b : Bool) (d : BitVec 12) (s : State) :
    resolveFormat3 b true d s = BitVec.ofInt 20 (s.pc.toNat + d.toInt) := by
  rw [← signedDisp_eq_toInt]; rfl

theorem resolveFormat3_b (d : BitVec 12) (s : State) :
    resolveFormat3 true false d s = BitVec.ofInt 20 (s.base.toNat + d.toInt) := by
  rw [← signedDisp_eq_toInt]; rfl

theorem resolveFormat3_neither (d : BitVec 12) (s : State) :
    resolveFormat3 false false d s = BitVec.ofInt 20 d.toInt := by
  rw [← signedDisp_eq_toInt]; rfl

/-- A displacement on its own is a target at either end of the address space, by its sign (R75). -/
theorem toNat_ofInt_toInt (d : BitVec 12) :
    (BitVec.ofInt 20 d.toInt).toNat = if d.toNat < 0x800 then d.toNat else 0xFF000 + d.toNat := by
  have hd := d.isLt
  rw [BitVec.toNat_ofInt, BitVec.toInt_eq_toNat_cond]
  split <;> split <;> omega

/-! ## The classes of the table -/

/-- Settles O1: each class is `p = 1` with its (n, i), and `resolveFormat3_p` is its target. -/
theorem pcRelativeClassesResolve : Obligations.PcRelativeClassesResolve := by
  intro op x b d z s target
  have short := format3Class_ends (resolveFormat3_p b d s) op x
  have long := longFormat3Class_ends (resolveFormat3_p b d s) op x z
  exact ⟨short true true, short true false, short false true, short false false,
    long true true, long true false, long false true, long false false⟩

/-- Settles O2: each class is `p = 0`, `b = 1` with its (n, i), and `resolveFormat3_b` is its target. -/
theorem baseRelativeClassesResolve : Obligations.BaseRelativeClassesResolve := by
  intro op x d z s target
  have short := format3Class_ends (resolveFormat3_b d s) op x
  have long := longFormat3Class_ends (resolveFormat3_b d s) op x z
  exact ⟨short true true, short true false, short false true, short false false,
    long true true, long true false, long false true, long false false⟩

/-- Settles O3: each class is `p = b = 0` with its (n, i), `resolveFormat3_neither` is its target, and
`toNat_ofInt_toInt` says where that lies. -/
theorem directClassesResolve : Obligations.DirectClassesResolve := by
  intro op x d z s target
  have hrange : target.toNat = _ := toNat_ofInt_toInt d
  have short := format3Class_ends (resolveFormat3_neither d s) op x
  have long := longFormat3Class_ends (resolveFormat3_neither d s) op x z
  exact ⟨fun h => hrange.trans (if_pos h), fun h => hrange.trans (if_neg (Nat.not_lt.mpr h)),
    short true true, short true false, short false true, short false false,
    long true true, long true false, long false true, long false false⟩

/-- Settles O4: each class is `e = 1` in a 32-bit word with its (n, i); no address arithmetic is involved. -/
theorem absoluteClassesResolve : Obligations.AbsoluteClassesResolve := by
  intro op x b p a s
  have ends n i := format4Class_ends op n i x b p a s
  exact ⟨ends true true, ends true false, ends false true, ends false false⟩

end Sys2Proof.Machine
end

section
/-! The opcode ROM (R85, R86): one equation for the key it holds, one for every other key. -/

namespace Sys2Proof.Machine

@[simp] theorem romLookup_romKey : romLookup romKey = some romData :=
  if_pos rfl

theorem romLookup_of_ne_romKey {k : Addr} (hk : k ≠ romKey) : romLookup k = none :=
  if_neg hk

/-- Settles O42: `romKey` is the one key that is found, and the comparison with it is on all twenty bits. -/
theorem romHasOneEntry : Obligations.RomHasOneEntry := by
  intro k
  constructor
  · rintro rfl
    exact romLookup_romKey
  · exact romLookup_of_ne_romKey

end Sys2Proof.Machine
end

section
/-! The decoder and the encoder are inverse to each other (30_encoding.md R36 to R41, R46), and each word belongs to one
class row. -/

namespace Sys2Proof

theorem encode_shortFormat4Class (op : Opcode) (n i x b p : Bool) (t : BitVec 12) :
    encode (shortFormat4Class op n i x b p t) = .w24 (layout24 op n i x b p true t) := by
  cases n <;> cases i <;> rfl

theorem decode_layout32_longTail (op : Opcode) (n i x b p : Bool) (d : BitVec 12) (z : Byte) :
    decode (.w32 (layout32 op n i x b p false (longTail d z))) = longFormat3Class op n i x b p d z := by
  obtain ⟨hd, hz⟩ := longTail_fields d z
  simp [decode_layout32, hd, hz]

theorem exists_layout24 (v : BitVec 24) : ∃ op n i x b p e t, v = layout24 op n i x b p e t :=
  ⟨_, _, _, _, _, _, _, _, (layout24_eta v).symm⟩

theorem exists_layout32 (v : BitVec 32) : ∃ op n i x b p e t, v = layout32 op n i x b p e t :=
  ⟨_, _, _, _, _, _, _, _, (layout32_eta v).symm⟩

theorem decode_encode_of_wellFormed {i : Instr} (hi : i.wellFormed = true) : decode (encode i) = i := by
  cases i with
  | f3SimplePc | f3SimpleBase | f3SimpleDirect | f3IndirectPc | f3IndirectBase | f3IndirectDirect
  | f3ImmediatePc | f3ImmediateBase | f3ImmediateDirect | f3InvalidPc | f3InvalidBase | f3InvalidDirect
  | f4sSimpleAbs | f4sIndirectAbs | f4sImmediateAbs | f4sInvalidAbs => exact decode_layout24 ..
  | f3lSimplePc | f3lSimpleBase | f3lSimpleDirect | f3lIndirectPc | f3lIndirectBase | f3lIndirectDirect
  | f3lImmediatePc | f3lImmediateBase | f3lImmediateDirect | f3lInvalidPc | f3lInvalidBase | f3lInvalidDirect =>
    exact decode_layout32_longTail ..
  | f4SimpleAbs | f4IndirectAbs | f4ImmediateAbs | f4InvalidAbs => exact decode_layout32 ..
  | romhitW24 | romhitW32 => cases hi

theorem encode_decode (w : InstrWord) : encode (decode w) = w := by
  cases w with
  | w24 v =>
    obtain ⟨op, n, i, x, b, p, e, t, rfl⟩ := exists_layout24 v
    rw [decode_layout24]
    cases e
    · exact Machine.encode_format3Class ..
    · exact encode_shortFormat4Class ..
  | w32 v =>
    obtain ⟨op, n, i, x, b, p, e, t, rfl⟩ := exists_layout32 v
    rw [decode_layout32]
    cases e
    · exact (Machine.encode_longFormat3Class ..).trans (by rw [longTail_eta])
    · exact Machine.encode_format4Class ..

/-- Settles O8, class by class: each class's word is its operands laid out, and the decoder reads every field back from
its place. -/
theorem decodeEncodeIsIdentity : Obligations.DecodeEncodeIsIdentity :=
  fun _ => decode_encode_of_wellFormed

/-- Settles O9: a word is its fields laid out, and the class built from those fields has that layout as its word. -/
theorem encodeDecodeIsIdentity : Obligations.EncodeDecodeIsIdentity :=
  encode_decode

/-! ## The class an instruction belongs to -/

/-- The word of any instruction decodes to the class it belongs to. -/
theorem decode_encode (i : Instr) : decode (encode i) = i.toClass := by
  cases i with
  | romhitW24 => exact decode_layout24 ..
  | romhitW32 => exact decode_layout32 ..
  | _ => exact decode_encode_of_wellFormed rfl

theorem wellFormed_toClass (i : Instr) : i.toClass.wellFormed = true := by
  cases i with
  | romhitW24 x b p e t => cases e <;> cases p <;> cases b <;> rfl
  | romhitW32 x b p e t => cases e <;> cases p <;> cases b <;> rfl
  | _ => rfl

theorem exec_toClass (i : Instr) (s : Machine.State) : Machine.exec i.toClass s = Machine.exec i s := by
  cases i with
  | romhitW24 x b p e t =>
    cases e
    · exact Machine.exec_format3Class ..
    · exact Machine.exec_shortFormat4Class 0 true true x b p t s
  | romhitW32 x b p e t =>
    cases e
    · exact Machine.exec_longFormat3Class ..
    · exact Machine.exec_format4Class 0 true true x b p t s
  | _ => rfl

theorem wellFormed_decode (w : InstrWord) : (decode w).wellFormed = true := by
  have hclass : decode w = (decode w).toClass := by
    simpa only [encode_decode] using decode_encode (decode w)
  rw [hclass]
  exact wellFormed_toClass _

/-! ## Rows of the opcode table -/

/-- The word of an instruction belongs to the instruction's row. -/
theorem tableRow_holds_encode (i : Instr) : i.tableRow.Holds (encode i) := by
  cases i with
  | f3SimplePc => exact Laws.TableRow.f3SimplePc ..
  | f3SimpleBase => exact Laws.TableRow.f3SimpleBase ..
  | f3SimpleDirect => exact Laws.TableRow.f3SimpleDirect ..
  | f3IndirectPc => exact Laws.TableRow.f3IndirectPc ..
  | f3IndirectBase => exact Laws.TableRow.f3IndirectBase ..
  | f3IndirectDirect => exact Laws.TableRow.f3IndirectDirect ..
  | f3ImmediatePc => exact Laws.TableRow.f3ImmediatePc ..
  | f3ImmediateBase => exact Laws.TableRow.f3ImmediateBase ..
  | f3ImmediateDirect => exact Laws.TableRow.f3ImmediateDirect ..
  | f3InvalidPc => exact Laws.TableRow.f3InvalidPc ..
  | f3InvalidBase => exact Laws.TableRow.f3InvalidBase ..
  | f3InvalidDirect => exact Laws.TableRow.f3InvalidDirect ..
  | f3lSimplePc => exact Laws.TableRow.f3lSimplePc ..
  | f3lSimpleBase => exact Laws.TableRow.f3lSimpleBase ..
  | f3lSimpleDirect => exact Laws.TableRow.f3lSimpleDirect ..
  | f3lIndirectPc => exact Laws.TableRow.f3lIndirectPc ..
  | f3lIndirectBase => exact Laws.TableRow.f3lIndirectBase ..
  | f3lIndirectDirect => exact Laws.TableRow.f3lIndirectDirect ..
  | f3lImmediatePc => exact Laws.TableRow.f3lImmediatePc ..
  | f3lImmediateBase => exact Laws.TableRow.f3lImmediateBase ..
  | f3lImmediateDirect => exact Laws.TableRow.f3lImmediateDirect ..
  | f3lInvalidPc => exact Laws.TableRow.f3lInvalidPc ..
  | f3lInvalidBase => exact Laws.TableRow.f3lInvalidBase ..
  | f3lInvalidDirect => exact Laws.TableRow.f3lInvalidDirect ..
  | f4SimpleAbs => exact Laws.TableRow.f4SimpleAbs ..
  | f4IndirectAbs => exact Laws.TableRow.f4IndirectAbs ..
  | f4ImmediateAbs => exact Laws.TableRow.f4ImmediateAbs ..
  | f4InvalidAbs => exact Laws.TableRow.f4InvalidAbs ..
  | f4sSimpleAbs => exact Laws.TableRow.f4sSimpleAbs ..
  | f4sIndirectAbs => exact Laws.TableRow.f4sIndirectAbs ..
  | f4sImmediateAbs => exact Laws.TableRow.f4sImmediateAbs ..
  | f4sInvalidAbs => exact Laws.TableRow.f4sInvalidAbs ..
  | romhitW24 => exact Laws.TableRow.romhitW24 ..
  | romhitW32 => exact Laws.TableRow.romhitW32 ..

theorem tableRow_decode_holds (w : InstrWord) : (decode w).tableRow.Holds w := by
  simpa only [encode_decode] using tableRow_holds_encode (decode w)

theorem tableRow_mem_classRows {i : Instr} (hi : i.wellFormed = true) : i.tableRow ∈ classRows := by
  cases i with
  | romhitW24 | romhitW32 => cases hi
  | _ => simp [Instr.tableRow, classRows, classRows24, classRows32]

/-- No word belongs to two disjoint rows: at a bit both masks fix, the masked word is both matches. -/
theorem TableRow.Disjoint.not_holds {r r' : TableRow} (hd : r.Disjoint r') {w : InstrWord} (h : r.Holds w) :
    ¬ r'.Holds w := by
  intro h'
  obtain ⟨hwidth, hbits⟩ := h
  obtain ⟨hwidth', hbits'⟩ := h'
  rcases hd with hne | hne
  · exact hne (hwidth.symm.trans hwidth')
  · apply hne
    rw [← hbits, ← hbits']
    apply Nat.eq_of_testBit_eq
    intro k
    simp only [Nat.testBit_and, Nat.testBit_xor, Nat.zero_testBit]
    cases w.value.testBit k <;> cases r.mask.testBit k <;> cases r'.mask.testBit k <;> rfl

theorem TableRow.Disjoint.symm {r r' : TableRow} (h : r.Disjoint r') : r'.Disjoint r := by
  unfold TableRow.Disjoint at *
  rwa [ne_comm, Nat.xor_comm, Nat.and_comm r'.mask]

theorem classRows_pairwise_disjoint : classRows.Pairwise TableRow.Disjoint := by decide

/-- Two class rows that hold of one word are the same row. -/
theorem classRow_unique {w : InstrWord} {r r' : TableRow} (hr : r ∈ classRows) (hr' : r' ∈ classRows)
    (h : r.Holds w) (h' : r'.Holds w) : r = r' := by
  have hsymm : Std.Symm TableRow.Disjoint := ⟨fun _ _ => TableRow.Disjoint.symm⟩
  by_contra hne
  exact (classRows_pairwise_disjoint.forall hr hr' hne).not_holds h h'

/-- Settles O10: the decoded class's row holds of its word, and the rows are pairwise disjoint, so no other does. -/
theorem exactlyOneClassRowHoldsOfAWord : Obligations.ExactlyOneClassRowHoldsOfAWord := by
  refine ⟨rfl, classRows_pairwise_disjoint, fun w => ?_⟩
  have hmem := tableRow_mem_classRows (wellFormed_decode w)
  have hholds := tableRow_decode_holds w
  exact ⟨wellFormed_decode w, hmem, hholds, fun r hr h => classRow_unique hr hmem h hholds⟩

/-! ## The overlay rows -/

/-- A first byte `0x03` is opcode 000000 with n = i = 1. -/
theorem firstByte_eq_three {op : Opcode} {n i : Bool} (h : 4 * op.toNat + 2 * n.toNat + i.toNat = 3) :
    op = 0 ∧ n = true ∧ i = true := by
  have hi := Bool.toNat_le i
  have hn := Bool.toNat_le n
  exact ⟨BitVec.eq_of_toNat_eq (by simp; omega), Bool.toNat_eq_one.mp (by omega), Bool.toNat_eq_one.mp (by omega)⟩

theorem romhitW24_row_holds_iff (w : InstrWord) :
    (Instr.romhitW24 false false false false 0).tableRow.Holds w ↔
      ∃ x b p e t, w = encode (.romhitW24 x b p e t) := by
  constructor
  · rintro ⟨hwidth, hbits⟩
    cases w with
    | w24 v =>
      obtain ⟨op, n, i, x, b, p, e, t, rfl⟩ := exists_layout24 v
      have hfirst : 2 ^ 16 * (4 * op.toNat + 2 * n.toNat + i.toNat) = 0x030000 :=
        (layout24_land_first op n i x b p e t).symm.trans hbits
      obtain ⟨rfl, rfl, rfl⟩ := firstByte_eq_three (op := op) (n := n) (i := i) (by omega)
      exact ⟨x, b, p, e, t, rfl⟩
    | w32 v => cases hwidth
  · rintro ⟨x, b, p, e, t, rfl⟩
    exact Laws.TableRow.romhitW24 x b p e t

theorem romhitW32_row_holds_iff (w : InstrWord) :
    (Instr.romhitW32 false false false false 0).tableRow.Holds w ↔
      ∃ x b p e t, w = encode (.romhitW32 x b p e t) := by
  constructor
  · rintro ⟨hwidth, hbits⟩
    cases w with
    | w24 v => cases hwidth
    | w32 v =>
      obtain ⟨op, n, i, x, b, p, e, t, rfl⟩ := exists_layout32 v
      have hfirst : 2 ^ 24 * (4 * op.toNat + 2 * n.toNat + i.toNat) = 0x03000000 :=
        (layout32_land_first op n i x b p e t).symm.trans hbits
      obtain ⟨rfl, rfl, rfl⟩ := firstByte_eq_three (op := op) (n := n) (i := i) (by omega)
      exact ⟨x, b, p, e, t, rfl⟩
  · rintro ⟨x, b, p, e, t, rfl⟩
    exact Laws.TableRow.romhitW32 x b p e t

/-- Settles O11: an overlay word is a laid-out word, so it decodes and runs as the class of its flags; its row's mask
keeps the first byte, which is `0x03` for these words only. -/
theorem overlayWordsDecodeToTheirClass : Obligations.OverlayWordsDecodeToTheirClass :=
  ⟨fun i _ => ⟨decode_encode i, wellFormed_toClass i, fun s => (exec_toClass i s).symm⟩,
    fun w => ⟨romhitW24_row_holds_iff w, romhitW32_row_holds_iff w⟩⟩

/-! ## Sample words and delivered bytes -/

/-- Settles O12: six closed words. -/
theorem sampleWordsDecode : Obligations.SampleWordsDecode := by
  unfold Obligations.SampleWordsDecode
  decide

theorem wordOfBytes3_value (b0 b1 b2 : Byte) :
    (wordOfBytes3 b0 b1 b2).value = b0.toNat * 65536 + b1.toNat * 256 + b2.toNat := by
  change (b0 ++ b1 ++ b2).toNat = _
  rw [append_toNat_mul, append_toNat_mul]
  omega

theorem wordOfBytes4_value (b0 b1 b2 b3 : Byte) :
    (wordOfBytes4 b0 b1 b2 b3).value = b0.toNat * 16777216 + b1.toNat * 65536 + b2.toNat * 256 + b3.toNat := by
  change (b0 ++ b1 ++ b2 ++ b3).toNat = _
  rw [append_toNat_mul, append_toNat_mul, append_toNat_mul]
  omega

theorem decodeBytes_of_length {l : List Byte} (h3 : l.length ≠ 3) (h4 : l.length ≠ 4) :
    decodeBytes l = .badByteCount l.length := by
  unfold decodeBytes
  split
  · exact absurd rfl h3
  · exact absurd rfl h4
  · rfl

/-- Settles O13: appending bytes puts the first one highest, and only lists of three and four bytes are words. -/
theorem deliveredBytesAreMostSignificantFirst : Obligations.DeliveredBytesAreMostSignificantFirst :=
  ⟨fun b0 b1 b2 => ⟨wordOfBytes3_value b0 b1 b2, rfl⟩, fun b0 b1 b2 b3 => ⟨wordOfBytes4_value b0 b1 b2 b3, rfl⟩,
    fun _ => decodeBytes_of_length⟩

end Sys2Proof
end

section
/-! Labels, 20-bit address arithmetic (R71, R78) and the ROM's enable (R87), each as numbers. -/

namespace Sys2Proof.Machine

/-- Settles O41: every row of the three tables is one evaluation. -/
theorem labelsFollowTheFlags : Obligations.LabelsFollowTheFlags :=
  ⟨rfl, rfl, rfl, rfl, rfl, rfl, fun _ _ => ⟨rfl, rfl, rfl, rfl⟩⟩

/-! ## The signed displacement and the 20-bit adder -/

theorem toNat_signExtend_disp (d : BitVec 12) : ((d.signExtend 20).toNat : Int) = signedDisp d % 2 ^ 20 := by
  rw [signedDisp_eq_toInt, BitVec.signExtend, BitVec.toNat_ofInt]
  omega

/-- Settles O39: the two branches of `signedDisp`, its bounds, and its residue, which sign extension computes. -/
theorem signedDisplacementIsTwosComplement : Obligations.SignedDisplacementIsTwosComplement := by
  intro d
  obtain ⟨hlow, hhigh⟩ := signedDisp_bounds d
  exact ⟨fun h => if_pos h, fun h => if_neg (Bool.eq_false_iff.mp h), hlow, Int.le_of_lt_add_one hhigh,
    toNat_signExtend_disp d⟩

theorem toAddr_add_emod (a b : Int) : (toAddr (a + b)).toNat = ((a % 2 ^ 20 + b % 2 ^ 20) % 2 ^ 20).toNat := by
  rw [toNat_toAddr, Int.add_emod]

/-- Only the residue of an integer modulo 2^20 reaches an address. -/
theorem toAddr_congr {a b : Int} (h : a % 2 ^ 20 = b % 2 ^ 20) : toAddr a = toAddr b :=
  BitVec.eq_of_toNat_eq (by rw [toNat_toAddr, toNat_toAddr, h])

theorem toAddr_signedDisp (d : BitVec 12) : toAddr (signedDisp d) = d.signExtend 20 := by
  apply BitVec.eq_of_toNat_eq
  have := toNat_signExtend_disp d
  rw [toNat_toAddr]
  omega

/-- A register plus a displacement is one 20-bit addition. -/
theorem toAddr_register_add_signedDisp (r : RegWord) (d : BitVec 12) :
    toAddr (r.toNat + signedDisp d) = r.setWidth 20 + d.signExtend 20 := by
  apply BitVec.eq_of_toNat_eq
  have := toNat_signExtend_disp d
  rw [toNat_toAddr, BitVec.toNat_add, BitVec.toNat_setWidth]
  omega

/-- Settles O40: reduction modulo 2^20 is additive, and each operand form is such a sum. -/
theorem twentyBitAdderIsExact : Obligations.TwentyBitAdderIsExact :=
  ⟨toAddr_add_emod, fun r d =>
    ⟨toAddr_register_add_signedDisp r d, toAddr_register_add_signedDisp r d, toAddr_signedDisp d⟩⟩

/-! ## The enable of the ROM -/

/-- The mask 0xFC leaves nothing of a byte exactly when the byte is below 4. -/
theorem land_fc_eq_zero_iff (c : BitVec 8) : c &&& 0xFC#8 = 0x00#8 ↔ c.toNat < 4 := by
  have hmask : (c &&& 0xFC#8).toNat = 2 ^ 2 * (c.toNat / 2 ^ 2 % 2 ^ 6) := by
    rw [BitVec.toNat_and]
    exact land_field c.toNat 2 6
  have := c.isLt
  rw [← BitVec.toNat_inj, hmask, BitVec.toNat_ofNat]
  omega

theorem opcodeByte_firstByte_lt_four_iff (op : Opcode) (n i : Bool) :
    (opcodeByte .firstByte op n i).toNat < 4 ↔ op.toNat = 0 := by
  have hn := Bool.toNat_le n
  have hi := Bool.toNat_le i
  change (op ++ BitVec.ofBool n ++ BitVec.ofBool i).toNat < 4 ↔ _
  rw [append_toNat_mul, append_toNat_mul, BitVec.toNat_ofBool, BitVec.toNat_ofBool]
  omega

theorem opcodeByte_sixBit_toNat (op : Opcode) (n i : Bool) : (opcodeByte .sixBit op n i).toNat = op.toNat := by
  have := op.isLt
  change (op.setWidth 8).toNat = _
  rw [BitVec.toNat_setWidth]
  omega

theorem romEnable_iff (m : OpMatch) (op : Opcode) (n i : Bool) :
    romEnable m op n i = true ↔ (opcodeByte m op n i).toNat < 4 ∧ n = true ∧ i = true := by
  simp only [romEnable, Bool.and_eq_true, beq_iff_eq, land_fc_eq_zero_iff, and_assoc]

theorem romEnable_firstByte_iff (op : Opcode) (n i : Bool) :
    romEnable .firstByte op n i = true ↔ op = 0 ∧ n = true ∧ i = true := by
  rw [romEnable_iff, opcodeByte_firstByte_lt_four_iff, ← BitVec.toNat_inj]
  rfl

theorem romEnable_sixBit_iff (op : Opcode) (n i : Bool) :
    romEnable .sixBit op n i = true ↔ op.toNat ≤ 3 ∧ n = true ∧ i = true := by
  rw [romEnable_iff, opcodeByte_sixBit_toNat, Nat.lt_succ_iff]

/-- Settles O43: the masked byte is zero exactly when it is below 4; the byte is the opcode and (n, i), or the opcode
alone. -/
theorem romEnableFollowsOpmatch : Obligations.RomEnableFollowsOpmatch :=
  fun op n i => ⟨romEnable_firstByte_iff op n i, romEnable_sixBit_iff op n i⟩

/-! ## The register-A value -/

/-- The one case in which there is a register-A value (R88). -/
theorem registerAValue_eq_some_iff (m : OpMatch) (op : Opcode) (n i : Bool) (target : Addr) (a : RegA) :
    registerAValue m op n i target = some a ↔ romEnable m op n i = true ∧ target = romKey ∧ a = romData := by
  simp only [registerAValue, romLookup, Option.ite_none_right_eq_some, Option.some_inj, eq_comm (a := romData)]

theorem registerAValue_eq_none_or (m : OpMatch) (op : Opcode) (n i : Bool) (target : Addr) :
    registerAValue m op n i target = none ∨ registerAValue m op n i target = some romData := by
  cases h : registerAValue m op n i target with
  | none => exact .inl rfl
  | some a =>
    obtain ⟨-, -, rfl⟩ := (registerAValue_eq_some_iff ..).mp h
    exact .inr rfl

theorem registerAValue_of_romEnable {m : OpMatch} {op : Opcode} {n i : Bool} (h : romEnable m op n i = true)
    (target : Addr) : registerAValue m op n i target = romLookup target :=
  if_pos h

theorem referenceRegisterA_eq_some_iff (m : OpMatch) (op : Opcode) (n i : Bool) (target : Nat) (a : RegA) :
    referenceRegisterA m op.toNat n i target = some a ↔
      romEnable m op n i = true ∧ target = 0x03600 ∧ a = romData := by
  have hdata : 0x103000#24 = a ↔ a = romData := eq_comm
  cases m with
  | firstByte =>
    rw [romEnable_iff, opcodeByte_firstByte_lt_four_iff]
    simp [referenceRegisterA, hdata, and_assoc]
  | sixBit =>
    have hop : op.toNat < 4 ↔ op.toNat = 0 ∨ op.toNat = 1 ∨ op.toNat = 2 ∨ op.toNat = 3 := by omega
    rw [romEnable_iff, opcodeByte_sixBit_toNat, hop]
    simp [referenceRegisterA, hdata, and_assoc, or_assoc]

/-- The lookup of the source on numbers is the ROM's (R87, R88). -/
theorem referenceRegisterA_eq (m : OpMatch) (op : Opcode) (n i : Bool) {target : Nat} (ht : target < 2 ^ 20) :
    referenceRegisterA m op.toNat n i target = registerAValue m op n i (BitVec.ofNat 20 target) := by
  have hkey : BitVec.ofNat 20 target = romKey ↔ target = 0x03600 := by
    rw [← BitVec.toNat_inj, BitVec.toNat_ofNat, Nat.mod_eq_of_lt ht]
    rfl
  ext a
  rw [referenceRegisterA_eq_some_iff, registerAValue_eq_some_iff, hkey]

end Sys2Proof.Machine
end

section
/-! The source's algorithm on bit fields, and that every class meaning and every step ends in it (41_field_extract.md
R70, 42_target_resolver.md R84, 43_opcode_rom.md R88). Later proofs speak of `reference` and no longer of classes. -/

namespace Sys2Proof

/-- The displacement field of a word of either width (R63). -/
def InstrWord.disp : InstrWord → BitVec 12
  | .w24 v => v.extractLsb' 0 12
  | .w32 v => v.extractLsb' 8 12

end Sys2Proof

namespace Sys2Proof.Machine

/-- The complete end with these fields, this tail and this target. -/
def completeEnd (m : OpMatch) (f : DecodedFields) (tail : Tail) (target : Addr) : TxEnd :=
  .complete
    { toDecodedFields := f
      tailBits := tail
      targetAddress := target
      registerAValue := registerAValue m f.opcodeBits f.n f.i target }

/-- The end of a short Format 4 word with these fields and twelve bits, by the policy (R77). -/
def shortEnd (cfg : Config) (f : DecodedFields) (t : BitVec 12) : TxEnd :=
  match cfg.shortF4Policy with
  | .refuse => .refused f
  | .truncate12 => completeEnd cfg.opMatch f (.disp t) (truncatedTarget t)
  | .zeroFill => completeEnd cfg.opMatch f (.addr (zeroFilledTarget t)) (zeroFilledTarget t)

/-- The sum that a Format 3 target is the residue of (R84). -/
def format3Sum (b p : Bool) (d : BitVec 12) (pc base : Nat) : Int :=
  if p then (pc : Int) + signedDisp d else if b then (base : Int) + signedDisp d else signedDisp d

theorem complete_eq_completeEnd (f : DecodedFields) (tail : Tail) (target : Addr) (s : State) :
    complete f tail target s = .next (s.endWith (completeEnd s.cfg.opMatch f tail target)) := rfl

theorem shortFormat4_eq_shortEnd (op : Opcode) (n i x b p : Bool) (t : BitVec 12) (s : State) :
    shortFormat4 op n i x b p t s =
      .next (s.endWith (shortEnd s.cfg (fieldsOf (.w24 (layout24 op n i x b p true t)) op n i x b p true) t)) := by
  unfold shortFormat4 shortEnd
  cases s.cfg.shortF4Policy <;> rfl

theorem resolveFormat3_eq_toAddr (b p : Bool) (d : BitVec 12) (s : State) :
    resolveFormat3 b p d s = toAddr (format3Sum b p d s.pc.toNat s.base.toNat) := by
  cases p <;> cases b <;> rfl

/-! ## The extractor on laid-out words -/

theorem extractFields_layout24 (op : Opcode) (n i x b p e : Bool) (t : BitVec 12) :
    extractFields (.w24 (layout24 op n i x b p e t)) =
      fieldsOf (.w24 (layout24 op n i x b p e t)) op n i x b p e := by
  obtain ⟨ho, hn, hi, hx, hb, hp, he, -⟩ := layout24_fields op n i x b p e t
  rw [extractFields_w24, ho, hn, hi, hx, hb, hp, he]

theorem extractFields_layout32 (op : Opcode) (n i x b p e : Bool) (t : BitVec 20) :
    extractFields (.w32 (layout32 op n i x b p e t)) =
      fieldsOf (.w32 (layout32 op n i x b p e t)) op n i x b p e := by
  obtain ⟨ho, hn, hi, hx, hb, hp, he, -⟩ := layout32_fields op n i x b p e t
  rw [extractFields_w32, ho, hn, hi, hx, hb, hp, he]

theorem disp_layout24 (op : Opcode) (n i x b p e : Bool) (t : BitVec 12) :
    (InstrWord.w24 (layout24 op n i x b p e t)).disp = t := by
  obtain ⟨-, -, -, -, -, -, -, ht⟩ := layout24_fields op n i x b p e t
  exact ht

theorem disp_layout32 (op : Opcode) (n i x b p e : Bool) (t : BitVec 20) :
    (InstrWord.w32 (layout32 op n i x b p e t)).disp = t.extractLsb' 8 12 := by
  obtain ⟨-, -, -, -, -, -, -, ht⟩ := layout32_fields op n i x b p e t
  obtain ⟨hd, -⟩ := extract_longTail (layout32 op n i x b p e t)
  rw [ht] at hd
  exact hd

/-! ## The algorithm on bit fields -/

theorem referenceResult_eq_completeEnd (cfg : Config) (f : DecodedFields) (tail : Tail) {target : Nat}
    (ht : target < 2 ^ 20) :
    referenceResult cfg f tail target = completeEnd cfg.opMatch f tail (BitVec.ofNat 20 target) := by
  rw [referenceResult, referenceRegisterA_eq _ _ _ _ ht]
  rfl

theorem intSlice_disp (w : InstrWord) : intSlice w.value (w.width - 13) (w.width - 24) = w.disp.toNat := by
  cases w <;> exact (toNat_extractLsb' ..).symm

/-- A word with e = 0 (R73 to R75, R84). -/
theorem reference_of_e_false {w : InstrWord} (he : (extractFields w).e = false) (cfg : Config) (pc base : Nat) :
    reference cfg w pc base =
      completeEnd cfg.opMatch (extractFields w) (.disp w.disp)
        (toAddr (format3Sum (extractFields w).b (extractFields w).p w.disp pc base)) := by
  have hsigned :
      (if intBit w.disp.toNat 11 then (w.disp.toNat : Int) - 4096 else w.disp.toNat) = signedDisp w.disp := by
    rw [intBit_toNat]; rfl
  simp only [reference, he, if_true, intSlice_disp, hsigned]
  rw [referenceResult_eq_completeEnd _ _ _ (by omega), BitVec.ofNat_toNat, BitVec.setWidth_eq]
  congr 1
  apply BitVec.eq_of_toNat_eq
  rw [toNat_toAddr, BitVec.toNat_ofNat, Nat.mod_eq_of_lt (by omega)]
  rfl

/-- A 32-bit word with e = 1 (R76). -/
theorem reference_w32_of_e_true {v : BitVec 32} (he : (extractFields (.w32 v)).e = true) (cfg : Config)
    (pc base : Nat) :
    reference cfg (.w32 v) pc base =
      completeEnd cfg.opMatch (extractFields (.w32 v)) (.addr (v.extractLsb' 0 20)) (v.extractLsb' 0 20) := by
  have hslice : intSlice v.toNat 19 0 = (v.extractLsb' 0 20).toNat := (toNat_extractLsb' 0 20 v).symm
  simp only [reference, he, InstrWord.width, InstrWord.value, hslice, Bool.true_eq_false, if_false, if_true]
  rw [referenceResult_eq_completeEnd _ _ _ (BitVec.isLt _), BitVec.ofNat_toNat, BitVec.setWidth_eq]

/-- A 24-bit word with e = 1 (R77). -/
theorem reference_w24_of_e_true {v : BitVec 24} (he : (extractFields (.w24 v)).e = true) (cfg : Config)
    (pc base : Nat) :
    reference cfg (.w24 v) pc base = shortEnd cfg (extractFields (.w24 v)) (v.extractLsb' 0 12) := by
  have hslice : intSlice v.toNat 11 0 = (v.extractLsb' 0 12).toNat := (toNat_extractLsb' 0 12 v).symm
  have ht := (v.extractLsb' 0 12).isLt
  simp only [reference, shortEnd, he, InstrWord.width, InstrWord.value, hslice, Bool.true_eq_false, Nat.reduceEqDiff,
    if_false]
  cases cfg.shortF4Policy with
  | refuse => rfl
  | truncate12 =>
    simp only [truncatedTarget_eq]
    rw [referenceResult_eq_completeEnd _ _ _ (by omega), BitVec.ofNat_toNat, BitVec.setWidth_eq]
  | zeroFill =>
    simp only [zeroFilledTarget_eq]
    rw [referenceResult_eq_completeEnd _ _ _ (by omega)]

/-! ## Every meaning ends in the algorithm -/

theorem exec_decode_eq_reference (w : InstrWord) (s : State) :
    exec (decode w) s = .next (s.endWith (reference s.cfg w s.pc.toNat s.base.toNat)) := by
  cases w with
  | w24 v =>
    obtain ⟨op, n, i, x, b, p, e, t, rfl⟩ := exists_layout24 v
    have hf := extractFields_layout24 op n i x b p e t
    have ht := disp_layout24 op n i x b p e t
    rw [decode_layout24]
    cases e with
    | false =>
      rw [reference_of_e_false (by rw [hf]; rfl), hf, ht]
      refine (exec_format3Class ..).trans ?_
      rw [resolveFormat3_eq_toAddr]
      exact complete_eq_completeEnd ..
    | true =>
      have ht' : (layout24 op n i x b p true t).extractLsb' 0 12 = t := ht
      rw [reference_w24_of_e_true (by rw [hf]; rfl), hf, ht']
      exact (exec_shortFormat4Class ..).trans (shortFormat4_eq_shortEnd ..)
  | w32 v =>
    obtain ⟨op, n, i, x, b, p, e, t, rfl⟩ := exists_layout32 v
    have hf := extractFields_layout32 op n i x b p e t
    have ht := disp_layout32 op n i x b p e t
    rw [decode_layout32]
    cases e with
    | false =>
      rw [reference_of_e_false (by rw [hf]; rfl), hf, ht]
      refine (exec_longFormat3Class ..).trans ?_
      rw [resolveFormat3_eq_toAddr, longFormat3, longTail_eta]
      exact complete_eq_completeEnd ..
    | true =>
      obtain ⟨-, -, -, -, -, -, -, ha⟩ := layout32_fields op n i x b p true t
      rw [reference_w32_of_e_true (by rw [hf]; rfl), hf, ha]
      exact (exec_format4Class ..).trans (complete_eq_completeEnd ..)

/-- An instruction, an overlay row too, ends in the algorithm's end for its word. -/
theorem exec_eq_reference (i : Instr) (s : State) :
    exec i s = .next (s.endWith (reference s.cfg (encode i) s.pc.toNat s.base.toNat)) := by
  rw [← exec_toClass, ← decode_encode, exec_decode_eq_reference]

theorem step_eq_reference (s : State) : step s = .next (s.endWith (referenceTransaction s)) := by
  rcases step_cases s with ⟨k, hf, hs⟩ | ⟨w, hf, hs⟩
  · rw [hs, referenceTransaction, hf]
  · rw [hs, exec_decode_eq_reference, referenceTransaction, hf]

theorem eq_endWith_of_step {s t : State} (h : step s = .next t) : t = s.endWith (referenceTransaction s) := by
  rw [step_eq_reference] at h
  exact (Host.Outcome.next.inj h).symm

theorem out_of_step {s t : State} (h : step s = .next t) : t.out = referenceTransaction s := by
  rw [eq_endWith_of_step h, State.endWith_out]

theorem referenceTransaction_of_word {s : State} {w : InstrWord} (h : frontEnd s.cfg s.input = .word w) :
    referenceTransaction s = reference s.cfg w s.pc.toNat s.base.toNat := by
  rw [referenceTransaction, h]

theorem referenceTransaction_of_error {s : State} {k : ErrorKind} (h : frontEnd s.cfg s.input = .error k) :
    referenceTransaction s = .error k := by
  rw [referenceTransaction, h]

/-- Settles O31: a step of any state ends in the algorithm's end, class by class through `exec_decode_eq_reference`. -/
theorem stepRefinesTheSourceAlgorithm : Obligations.StepRefinesTheSourceAlgorithm :=
  fun s => ⟨_, step_eq_reference s, s.endWith_out _⟩

end Sys2Proof.Machine
end

section
/-! What the end of a transaction is (R18, R122): its kind, the record of a complete result, and the invariants every
end meets. -/

namespace Sys2Proof.Machine

/-! ## The kind of an end -/

/-- A short Format 4 word under `SHORT_F4_POLICY = refuse`: the words the algorithm refuses (R77). -/
def RefusedWord (cfg : Config) (w : InstrWord) : Prop :=
  cfg.shortF4Policy = .refuse ∧ ∃ v, w = .w24 v ∧ v.getLsbD 12 = true

theorem extractFields_w24_e (v : BitVec 24) : (extractFields (.w24 v)).e = v.getLsbD 12 := by
  rw [extractFields_w24]; rfl

theorem extractFields_w32_e (v : BitVec 32) : (extractFields (.w32 v)).e = v.getLsbD 20 := by
  rw [extractFields_w32]; rfl

/-- What the source says of a complete result of the word `w` (R17, R63, R84, R88). -/
structure IsResultOf (cfg : Config) (w : InstrWord) (pc base : Nat) (r : DecodedInstruction) : Prop where
  fields : r.toDecodedFields = extractFields w
  registerA : r.registerAValue = registerAValue cfg.opMatch r.opcodeBits r.n r.i r.targetAddress
  disp : r.e = false →
    r.tailBits = .disp w.disp ∧ r.targetAddress = toAddr (format3Sum r.b r.p w.disp pc base)
  addr : r.e = true → ∀ v, w = .w32 v → r.tailBits = .addr (v.extractLsb' 0 20)
  tail : TailAgrees cfg r

section Complete
variable (cfg : Config) (pc base : Nat)

theorem reference_complete_of_e_false {w : InstrWord} (he : (extractFields w).e = false) :
    ∃ r, reference cfg w pc base = .complete r ∧ IsResultOf cfg w pc base r := by
  refine ⟨_, reference_of_e_false he cfg pc base, ⟨rfl, rfl, fun _ => ⟨rfl, rfl⟩, fun h => ?_, .inl ?_⟩⟩
  · cases he.symm.trans h
  · exact congrArg formatOf he

theorem reference_complete_w32 {v : BitVec 32} (he : (extractFields (.w32 v)).e = true) :
    ∃ r, reference cfg (.w32 v) pc base = .complete r ∧ IsResultOf cfg (.w32 v) pc base r := by
  refine ⟨_, reference_w32_of_e_true he cfg pc base,
    ⟨rfl, rfl, fun h => ?_, fun _ v' h => ?_, congrArg formatOf he, .inl rfl⟩⟩
  · cases he.symm.trans h
  · cases h
    rfl

theorem reference_complete_w24 {v : BitVec 24} (he : (extractFields (.w24 v)).e = true)
    (hpolicy : cfg.shortF4Policy ≠ .refuse) :
    ∃ r, reference cfg (.w24 v) pc base = .complete r ∧ IsResultOf cfg (.w24 v) pc base r := by
  have hdisp {P : Prop} (h : (extractFields (.w24 v)).e = false) : P := by
    cases he.symm.trans h
  rw [reference_w24_of_e_true he, shortEnd]
  cases hp : cfg.shortF4Policy with
  | refuse => exact absurd hp hpolicy
  | truncate12 => exact ⟨_, rfl, ⟨rfl, rfl, hdisp, nofun, .inr ⟨rfl, hp⟩⟩⟩
  | zeroFill => exact ⟨_, rfl, ⟨rfl, rfl, hdisp, nofun, congrArg formatOf he, .inr hp⟩⟩

end Complete

theorem reference_of_refusedWord {cfg : Config} {w : InstrWord} (hw : RefusedWord cfg w) (pc base : Nat) :
    reference cfg w pc base = .refused (extractFields w) := by
  obtain ⟨hpolicy, v, rfl, hv⟩ := hw
  rw [reference_w24_of_e_true ((extractFields_w24_e v).trans hv), shortEnd, hpolicy]

/-- Every word that is not refused has a complete result. -/
theorem exists_reference_eq_complete {cfg : Config} {w : InstrWord} (hw : ¬ RefusedWord cfg w) (pc base : Nat) :
    ∃ r, reference cfg w pc base = .complete r ∧ IsResultOf cfg w pc base r := by
  cases he : (extractFields w).e with
  | false => exact reference_complete_of_e_false cfg pc base he
  | true =>
    cases w with
    | w24 v =>
      have hv : v.getLsbD 12 = true := (extractFields_w24_e v).symm.trans he
      exact reference_complete_w24 cfg pc base he fun hpolicy => hw ⟨hpolicy, v, rfl, hv⟩
    | w32 v => exact reference_complete_w32 cfg pc base he

theorem not_refusedWord_iff (cfg : Config) (w : InstrWord) :
    ¬ RefusedWord cfg w ↔ (cfg.shortF4Policy = .refuse → w.width = 24 → w.value.testBit 12 = false) := by
  cases w with
  | w24 v => simp [RefusedWord, InstrWord.width, InstrWord.value, BitVec.getElem_eq_testBit_toNat]
  | w32 v => simp [RefusedWord, InstrWord.width]

/-- The three ways a transaction ends (R122). -/
theorem referenceTransaction_cases (s : State) :
    (∃ k, frontEnd s.cfg s.input = .error k ∧ referenceTransaction s = .error k) ∨
    (∃ w, frontEnd s.cfg s.input = .word w ∧ RefusedWord s.cfg w ∧
      referenceTransaction s = .refused (extractFields w)) ∨
    (∃ w, frontEnd s.cfg s.input = .word w ∧ ¬ RefusedWord s.cfg w ∧
      ∃ r, referenceTransaction s = .complete r ∧ IsResultOf s.cfg w s.pc.toNat s.base.toNat r) := by
  cases hf : frontEnd s.cfg s.input with
  | error k => exact .inl ⟨k, rfl, referenceTransaction_of_error hf⟩
  | word w =>
    rw [referenceTransaction_of_word hf]
    by_cases hw : RefusedWord s.cfg w
    · exact .inr (.inl ⟨w, rfl, hw, reference_of_refusedWord hw ..⟩)
    · exact .inr (.inr ⟨w, rfl, hw, exists_reference_eq_complete hw ..⟩)

section Ends
variable {s t : State} (hs : step s = .next t)
include hs

/-- A step that ends in an error took it from the front-end. -/
theorem frontEnd_of_out_error {k : ErrorKind} (h : t.out = .error k) : frontEnd s.cfg s.input = .error k := by
  rw [out_of_step hs] at h
  rcases referenceTransaction_cases s with ⟨k', hf, h'⟩ | ⟨w, -, -, h'⟩ | ⟨w, -, -, r, h', -⟩ <;>
    cases h'.symm.trans h
  exact hf

theorem refusedWord_of_out_refused {f : DecodedFields} (h : t.out = .refused f) :
    ∃ w, frontEnd s.cfg s.input = .word w ∧ RefusedWord s.cfg w ∧ f = extractFields w := by
  rw [out_of_step hs] at h
  rcases referenceTransaction_cases s with ⟨k', -, h'⟩ | ⟨w, hf, hw, h'⟩ | ⟨w, -, -, r, h', -⟩ <;>
    cases h'.symm.trans h
  exact ⟨w, hf, hw, rfl⟩

theorem isResultOf_of_out_complete {r : DecodedInstruction} (h : t.out = .complete r) :
    ∃ w, frontEnd s.cfg s.input = .word w ∧ ¬ RefusedWord s.cfg w ∧
      IsResultOf s.cfg w s.pc.toNat s.base.toNat r := by
  rw [out_of_step hs] at h
  rcases referenceTransaction_cases s with ⟨k', -, h'⟩ | ⟨w, -, -, h'⟩ | ⟨w, hf, hw, r, h', hr⟩ <;>
    cases h'.symm.trans h
  exact ⟨w, hf, hw, hr⟩

end Ends

/-! ## The invariants of every result -/

theorem formatOf_eq_three_iff (e : Bool) : formatOf e = .three ↔ e = false := by
  cases e <;> decide

theorem relativeMode_eq_absolute_iff (e p b : Bool) : relativeMode e p b = .absoluteFormat4 ↔ formatOf e = .four := by
  cases e <;> cases p <;> cases b <;> decide

theorem IsResultOf.resultInvariant {cfg : Config} {w : InstrWord} {pc base : Nat} {r : DecodedInstruction}
    (h : IsResultOf cfg w pc base r) : ResultInvariant cfg r := by
  obtain ⟨f, tail, target, a⟩ := r
  obtain rfl : f = extractFields w := h.fields
  exact
    { bits_length := w.length_bits
      format_three_iff := formatOf_eq_three_iff _
      absolute_iff := relativeMode_eq_absolute_iff ..
      fields := rfl
      tail := h.tail
      registerA_present := by
        intro a ha
        obtain ⟨henable, htarget, hdata⟩ := (registerAValue_eq_some_iff ..).mp (h.registerA.symm.trans ha)
        obtain ⟨-, hn, hi⟩ := (romEnable_iff ..).mp henable
        exact ⟨henable, hn, hi, htarget, hdata⟩ }

theorem safe_endWith_reference (s : State) (w : InstrWord) (pc base : Nat) :
    (s.endWith (reference s.cfg w pc base)).Safe := by
  by_cases hw : RefusedWord s.cfg w
  · rw [reference_of_refusedWord hw]
    obtain ⟨hpolicy, v, rfl, hv⟩ := hw
    exact ⟨rfl, rfl, (extractFields_w24_e v).trans hv, hpolicy⟩
  · obtain ⟨r, h, hr⟩ := exists_reference_eq_complete hw pc base
    rw [h]
    exact hr.resultInvariant

/-- Settles O52: every end is the algorithm's, and the algorithm's ends meet R18, whatever the state was before. -/
theorem everyStepKeepsSafety : Obligations.EveryStepKeepsSafety := by
  constructor
  · intro s t _ hs
    rw [eq_endWith_of_step hs]
    cases hf : frontEnd s.cfg s.input with
    | error k => rw [referenceTransaction_of_error hf]; trivial
    | word w => rw [referenceTransaction_of_word hf]; exact safe_endWith_reference ..
  · intro i s t _ hi
    rw [exec_eq_reference] at hi
    obtain rfl := Host.Outcome.next.inj hi
    exact safe_endWith_reference ..

end Sys2Proof.Machine
end

section
/-! The step (R7, R8, R117), what it leaves unchanged, what its end depends on, and lists of transactions (R122). -/

namespace Sys2Proof.Machine

/-- Settles O22: the two branches of `step`. -/
theorem stepRunsTheDecodedInstruction : Obligations.StepRunsTheDecodedInstruction := by
  intro s
  constructor
  · intro w hf
    rw [step, hf]
  · intro k hf
    rw [step, hf]

/-- Settles O24: a step and an instruction only end the transaction. -/
theorem nothingStopsTheMachine : Obligations.NothingStopsTheMachine :=
  ⟨fun s => ⟨_, step_eq_reference s⟩, fun i s => ⟨_, exec_eq_reference i s⟩⟩

/-- Settles O25: ending the transaction writes the end and the counter. -/
theorem stepLeavesInputsAndParameters : Obligations.StepLeavesInputsAndParameters := by
  constructor
  · intro s t hs
    rw [eq_endWith_of_step hs]
    exact ⟨rfl, rfl, rfl, rfl⟩
  · intro i s t hi
    rw [exec_eq_reference] at hi
    obtain rfl := Host.Outcome.next.inj hi
    exact ⟨rfl, rfl, rfl, rfl⟩

/-- Settles O53: the algorithm reads nothing that ending the transaction writes. -/
theorem everyStepSettlesTheOutputs : Obligations.EveryStepSettlesTheOutputs := by
  intro s t hs
  rw [eq_endWith_of_step hs]
  rfl

/-! ## What an end depends on -/

/-- An end is a function of the parameters and the inputs. -/
theorem referenceTransaction_congr {s s' : State} (hcfg : s.cfg = s'.cfg) (hinput : s.input = s'.input)
    (hpc : s.pc = s'.pc) (hbase : s.base = s'.base) : referenceTransaction s = referenceTransaction s' := by
  rw [referenceTransaction, referenceTransaction, hcfg, hinput, hpc, hbase]

/-- Settles O27: both ends are the algorithm's, on the same arguments, and the state after a step has them still. -/
theorem identicalArgumentsGiveIdenticalEnds : Obligations.IdenticalArgumentsGiveIdenticalEnds := by
  intro s s' t t' hcfg hinput hpc hbase hs hs'
  rw [out_of_step hs, out_of_step hs', eq_endWith_of_step hs]
  exact ⟨referenceTransaction_congr hcfg hinput hpc hbase, _, step_eq_reference _, rfl⟩

/-- Two inputs give a word the same end if they give its Format 3 sum the same residue. -/
theorem reference_congr (cfg : Config) (w : InstrWord) {pc pc' base base' : Nat}
    (h : (extractFields w).e = false →
      format3Sum (extractFields w).b (extractFields w).p w.disp pc base % 2 ^ 20 =
        format3Sum (extractFields w).b (extractFields w).p w.disp pc' base' % 2 ^ 20) :
    reference cfg w pc base = reference cfg w pc' base' := by
  cases he : (extractFields w).e with
  | false => rw [reference_of_e_false he, reference_of_e_false he, toAddr_congr (h he)]
  | true =>
    cases w with
    | w24 v => rw [reference_w24_of_e_true he, reference_w24_of_e_true he]
    | w32 v => rw [reference_w32_of_e_true he, reference_w32_of_e_true he]

/-- Two transactions on the same instruction input end alike if the algorithm ends alike on its word. -/
theorem out_eq_of_reference_eq {s s' t t' : State} (hcfg : s.cfg = s'.cfg) (hinput : s.input = s'.input)
    (hs : step s = .next t) (hs' : step s' = .next t')
    (h : ∀ w, frontEnd s.cfg s.input = .word w →
      reference s.cfg w s.pc.toNat s.base.toNat = reference s.cfg w s'.pc.toNat s'.base.toNat) :
    t.out = t'.out := by
  rw [out_of_step hs, out_of_step hs']
  cases hf : frontEnd s.cfg s.input with
  | error k =>
    rw [referenceTransaction_of_error hf, referenceTransaction_of_error (by rw [← hcfg, ← hinput, hf])]
  | word w =>
    rw [referenceTransaction_of_word hf, h w hf, referenceTransaction_of_word (by rw [← hcfg, ← hinput, hf]), hcfg]

/-- Settles O29: only the residue of the Format 3 sum reaches an end. -/
theorem onlyLowTwentyBitsOfInputsMatter : Obligations.OnlyLowTwentyBitsOfInputsMatter := by
  intro s s' t t' hcfg hinput hpc hbase hs hs'
  refine out_eq_of_reference_eq hcfg hinput hs hs' fun w _ => reference_congr _ w fun _ => ?_
  unfold format3Sum
  split
  · omega
  · split
    · omega
    · rfl

theorem format3Sum_congr {b p : Bool} {pc pc' base base' : Nat}
    (hpc : relativeMode false p b = .pcRelative → pc = pc')
    (hbase : relativeMode false p b = .baseRelative → base = base') (d : BitVec 12) :
    format3Sum b p d pc base = format3Sum b p d pc' base' := by
  cases p with
  | true => rw [hpc rfl]; rfl
  | false =>
    cases b with
    | true => rw [hbase rfl]; rfl
    | false => rfl

/-- Settles O30: the Format 3 sum reads the input its relative mode names. -/
theorem unreadInputsHaveNoEffect : Obligations.UnreadInputsHaveNoEffect := by
  intro s s' t t' hcfg hinput hread hs hs'
  refine out_eq_of_reference_eq hcfg hinput hs hs' fun w hf => reference_congr _ w fun he => ?_
  obtain ⟨hpc, hbase⟩ := hread w hf
  rw [he] at hpc hbase
  rw [format3Sum_congr (fun h => congrArg BitVec.toNat (hpc h)) fun h => congrArg BitVec.toNat (hbase h)]

/-- Settles O38: neither the front-end nor the algorithm reads the two parameters. -/
theorem inertParametersChangeNoEnd : Obligations.InertParametersChangeNoEnd := by
  intro s t t' unit code hs hs'
  rw [out_of_step hs, out_of_step hs']
  rfl

/-! ## Errors -/

/-- Only a text can end in an error. -/
theorem frontEnd_eq_error_iff (cfg : Config) (input : Input) (k : ErrorKind) :
    frontEnd cfg input = .error k ↔ ∃ raw, input = .text raw ∧ normalize cfg raw = .error k := by
  cases input with
  | text raw =>
    simp only [frontEnd, frameText, Input.text.injEq, exists_eq_left']
    cases normalize cfg raw <;> simp
  | word | bytes24 | bytes32 => simp [frontEnd]

/-- Settles O46: an error's end is the front-end's, and the front-end's only source of errors is `normalize`. -/
theorem errorsComeFromTextOnly : Obligations.ErrorsComeFromTextOnly := by
  constructor
  · intro s t k hs hout
    exact (frontEnd_eq_error_iff ..).mp (frontEnd_of_out_error hs hout)
  · intro s raw k hinput hnorm
    have hf := (frontEnd_eq_error_iff s.cfg s.input k).mpr ⟨raw, hinput, hnorm⟩
    exact ⟨_, step_eq_reference s, referenceTransaction_of_error hf, rfl, rfl, rfl, rfl⟩

/-! ## Transactions -/

/-- Run over a list, the machine gives each transaction the end it has alone. -/
theorem runAll_eq_map (s : State) (ts : List Transaction) : runAll s ts = ts.map (endOf s.cfg) := by
  induction ts generalizing s with
  | nil => rfl
  | cons t ts ih =>
    rw [runAll, step_eq_reference]
    exact congrArg _ (ih _)

/-- Settles O26: the front-end's errors, the refused words and all others give the three ends. -/
theorem transactionEndsInOneOfThreeWays : Obligations.TransactionEndsInOneOfThreeWays := by
  refine ⟨fun s t hs => ⟨⟨?_, ?_⟩, ⟨?_, ?_⟩, ⟨?_, ?_⟩⟩, runAll_eq_map⟩
  · rintro ⟨k, h⟩
    exact ⟨k, frontEnd_of_out_error hs h⟩
  · rintro ⟨k, hf⟩
    exact ⟨k, (out_of_step hs).trans (referenceTransaction_of_error hf)⟩
  · rintro ⟨f, h⟩
    obtain ⟨w, hf, ⟨hpolicy, v, rfl, hv⟩, -⟩ := refusedWord_of_out_refused hs h
    exact ⟨hpolicy, v, hf, hv⟩
  · rintro ⟨hpolicy, v, hf, hv⟩
    have h := reference_of_refusedWord ⟨hpolicy, v, rfl, hv⟩ s.pc.toNat s.base.toNat
    exact ⟨_, (out_of_step hs).trans ((referenceTransaction_of_word hf).trans h)⟩
  · rintro ⟨r, h⟩
    obtain ⟨w, hf, hw, -⟩ := isResultOf_of_out_complete hs h
    exact ⟨w, hf, (not_refusedWord_iff ..).mp hw⟩
  · rintro ⟨w, hf, hw⟩
    obtain ⟨r, h, -⟩ :=
      exists_reference_eq_complete ((not_refusedWord_iff ..).mpr hw) s.pc.toNat s.base.toNat
    exact ⟨r, (out_of_step hs).trans ((referenceTransaction_of_word hf).trans h)⟩

/-- Settles O28: the list of ends is the list of transactions mapped. -/
theorem transactionOrderDoesNotMatter : Obligations.TransactionOrderDoesNotMatter := by
  intro s s' ts ts' hcfg hperm
  rw [runAll_eq_map, runAll_eq_map, ← List.map_prod_left_eq_zip, ← List.map_prod_left_eq_zip, hcfg]
  exact ⟨hperm.map _, List.length_map ..⟩

/-! ## Words on the ports -/

theorem ofPorts_false (word : BitVec 32) : InstrWord.ofPorts false word = .w24 (BitVec.ofNat 24 word.toNat) := by
  rw [BitVec.ofNat_toNat]
  rfl

/-- Settles O37: the word on the ports is the low 24 bits, and an end that has a word has that one. -/
theorem portsIgnoreTheTopByteOfShortWords : Obligations.PortsIgnoreTheTopByteOfShortWords := by
  intro s t t' word word' hlow hs hs'
  have hword : BitVec.ofNat 24 word.toNat = BitVec.ofNat 24 word'.toNat :=
    BitVec.eq_of_toNat_eq (by rw [BitVec.toNat_ofNat, BitVec.toNat_ofNat, hlow])
  have hframe (c : BitVec 32) : frontEnd s.cfg (.word false c) = .word (.w24 (BitVec.ofNat 24 c.toNat)) :=
    congrArg _ (ofPorts_false c)
  constructor
  · rw [out_of_step hs, out_of_step hs', referenceTransaction_of_word (hframe word),
      referenceTransaction_of_word (hframe word'), hword]
  · rintro f (h | ⟨r, h, rfl⟩)
    · obtain ⟨w, hf, -, rfl⟩ := refusedWord_of_out_refused hs h
      exact (Framed.word.inj ((hframe word).symm.trans hf)).symm
    · obtain ⟨w, hf, -, hr⟩ := isResultOf_of_out_complete hs h
      rw [hr.fields]
      exact (Framed.word.inj ((hframe word).symm.trans hf)).symm

/-- The bytes of a table word are its base-256 digits, so that they make up the word that the ports show. -/
theorem decodeBytes_bytesOf_three {w : Nat} (hw : w < 2 ^ 24) :
    decodeBytes (bytesOf 3 w) = .instr (decode (.w24 (BitVec.ofNat 24 w))) := by
  have hword : wordOfBytes3 (BitVec.ofNat 8 (w / 256 ^ 2)) (BitVec.ofNat 8 (w / 256 ^ 1))
      (BitVec.ofNat 8 (w / 256 ^ 0)) = .w24 (BitVec.ofNat 24 w) := by
    refine congrArg InstrWord.w24 (BitVec.eq_of_toNat_eq ((wordOfBytes3_value ..).trans ?_))
    simp only [BitVec.toNat_ofNat]
    omega
  rw [← hword]
  rfl

theorem decodeBytes_bytesOf_four {w : Nat} (hw : w < 2 ^ 32) :
    decodeBytes (bytesOf 4 w) = .instr (decode (.w32 (BitVec.ofNat 32 w))) := by
  have hword : wordOfBytes4 (BitVec.ofNat 8 (w / 256 ^ 3)) (BitVec.ofNat 8 (w / 256 ^ 2)) (BitVec.ofNat 8 (w / 256 ^ 1))
      (BitVec.ofNat 8 (w / 256 ^ 0)) = .w32 (BitVec.ofNat 32 w) := by
    refine congrArg InstrWord.w32 (BitVec.eq_of_toNat_eq ((wordOfBytes4_value ..).trans ?_))
    simp only [BitVec.toNat_ofNat]
    omega
  rw [← hword]
  rfl

/-- A table word is decoded at the block's two widths only. -/
theorem decodeTableWord_width {nbits w : Nat} {i : Instr} (h : decodeTableWord nbits w = some i) :
    nbits = 24 ∨ nbits = 32 := by
  have hlen : (bytesOf (nbits / 8) w).length = nbits / 8 := by simp [bytesOf]
  unfold decodeTableWord at h
  split at h
  · by_contra hne
    rw [decodeBytes_of_length (by omega) (by omega)] at h
    cases h
  · cases h

/-- Settles O23: at either width the bytes of the table word and the ports give the same word. -/
theorem tableWordRunsOnTheNextStep : Obligations.TableWordRunsOnTheNextStep := by
  intro s nbits w i hw hi
  rcases decodeTableWord_width hi with rfl | rfl
  · have hdecode : decodeTableWord 24 w = some (decode (.w24 (BitVec.ofNat 24 w))) := by
      simp [decodeTableWord, decodeBytes_bytesOf_three hw]
    obtain rfl := Option.some.inj (hdecode.symm.trans hi)
    have hports : InstrWord.ofPorts false (BitVec.ofNat 32 w) = .w24 (BitVec.ofNat 24 w) := by
      rw [ofPorts_false]
      exact congrArg InstrWord.w24 (BitVec.eq_of_toNat_eq (by simp))
    exact (stepRunsTheDecodedInstruction _).1 _ (congrArg Framed.word hports)
  · have hdecode : decodeTableWord 32 w = some (decode (.w32 (BitVec.ofNat 32 w))) := by
      simp [decodeTableWord, decodeBytes_bytesOf_four hw]
    obtain rfl := Option.some.inj (hdecode.symm.trans hi)
    exact (stepRunsTheDecodedInstruction _).1 _ rfl

/-! ## Reset -/

/-- Settles O50: two fields of the reset state. -/
theorem resetDrivesTheDefaults : Obligations.ResetDrivesTheDefaults :=
  ⟨rfl, rfl⟩

/-- Settles O51: the empty line is `InvalidLength`, which is the end that reset shows. -/
theorem resetIsSafeAndSettled : Obligations.ResetIsSafeAndSettled := by
  have hsettled : State.reset.out = referenceTransaction State.reset := rfl
  exact ⟨trivial, hsettled, _, step_eq_reference _, hsettled.symm⟩

end Sys2Proof.Machine
end

section
/-! The fields of a result as slices of its own string of digits (R60 to R63), its register-A value (R88, R89), and
what the ports show of an end (R20). -/

namespace Sys2Proof

/-! ## Slices of the string of digits -/

@[simp] theorem InstrWord.width_w24 (v : BitVec 24) : (InstrWord.w24 v).width = 24 := rfl
@[simp] theorem InstrWord.width_w32 (v : BitVec 32) : (InstrWord.w32 v).width = 32 := rfl

theorem InstrWord.bitsSlice_bits (w : InstrWord) {a b : Nat} (hb : b ≤ w.width) :
    bitsSlice w.bits a b = (List.range (b - a)).map fun k => w.value.testBit (w.width - 1 - (a + k)) := by
  apply List.ext_getElem
  · simp [bitsSlice]
    omega
  · intro k hk hk'
    simp [bitsSlice, bits_eq_map_testBit]

/-- A slice denotes the same number as the integer slice (R5). -/
theorem InstrWord.bitsValue_bitsSlice (w : InstrWord) {a b : Nat} (hab : a ≤ b) (hb : b ≤ w.width) :
    bitsValue (bitsSlice w.bits a b) = w.value / 2 ^ (w.width - b) % 2 ^ (b - a) := by
  have hlow : w.value % 2 ^ (w.width - a) < 2 ^ (w.width - a) := Nat.mod_lt _ (by positivity)
  have hsplit : 2 ^ (w.width - a) = 2 ^ (w.width - b) * 2 ^ (b - a) := by
    rw [← pow_add]
    congr 1
    omega
  calc bitsValue (bitsSlice w.bits a b)
      = bitsValue ((List.range (b - a)).map fun k =>
          (w.value % 2 ^ (w.width - a)).testBit (w.width - a - 1 - k)) := by
        rw [w.bitsSlice_bits hb]
        congr 1
        apply List.map_congr_left
        intro k hk
        have := List.mem_range.mp hk
        rw [Nat.testBit_mod_two_pow, decide_eq_true (by omega), Bool.true_and]
        congr 1
        omega
    _ = w.value % 2 ^ (w.width - a) / 2 ^ (w.width - a - (b - a)) := bitsValue_leading_digits hlow _ (by omega)
    _ = w.value / 2 ^ (w.width - b) % 2 ^ (b - a) := by
        rw [show w.width - a - (b - a) = w.width - b by omega, hsplit, Nat.mod_mul_right_div_self]

end Sys2Proof

namespace Sys2Proof.Machine

theorem opcode_slice (w : InstrWord) :
    bitsValue (bitsSlice w.bits 0 6) = (extractFields w).opcodeBits.toNat := by
  cases w with
  | w24 v =>
    rw [InstrWord.bitsValue_bitsSlice _ (by decide) (by simp), extractFields_w24]
    exact (toNat_extractLsb' 18 6 v).symm
  | w32 v =>
    rw [InstrWord.bitsValue_bitsSlice _ (by decide) (by simp), extractFields_w32]
    exact (toNat_extractLsb' 26 6 v).symm

theorem flags_slice (w : InstrWord) :
    bitsSlice w.bits 6 12 =
      [(extractFields w).n, (extractFields w).i, (extractFields w).x, (extractFields w).b, (extractFields w).p,
        (extractFields w).e] := by
  cases w with
  | w24 v => rw [InstrWord.bitsSlice_bits _ (by simp), extractFields_w24]; rfl
  | w32 v => rw [InstrWord.bitsSlice_bits _ (by simp), extractFields_w32]; rfl

theorem disp_slice (w : InstrWord) : bitsValue (bitsSlice w.bits 12 24) = w.disp.toNat := by
  cases w with
  | w24 v => rw [InstrWord.bitsValue_bitsSlice _ (by decide) (by simp)]; exact (toNat_extractLsb' 0 12 v).symm
  | w32 v => rw [InstrWord.bitsValue_bitsSlice _ (by decide) (by simp)]; exact (toNat_extractLsb' 8 12 v).symm

theorem addr_slice (v : BitVec 32) :
    bitsValue (bitsSlice (InstrWord.w32 v).bits 12 32) = (v.extractLsb' 0 20).toNat := by
  rw [InstrWord.bitsValue_bitsSlice _ (by decide) (by simp)]
  exact (toNat_extractLsb' 0 20 v).symm

/-- Settles O15: a result's fields are the extractor's, and each is read back from the digits at its place. -/
theorem resultFieldsAreSlicesOfBits : Obligations.ResultFieldsAreSlicesOfBits := by
  intro s t r hs hout
  obtain ⟨w, -, -, hr⟩ := isResultOf_of_out_complete hs hout
  obtain ⟨f, tail, target, a⟩ := r
  obtain rfl : f = extractFields w := hr.fields
  refine ⟨opcode_slice w, flags_slice w, fun he => ?_, fun he hwidth => ?_⟩
  · obtain ⟨htail, -⟩ := hr.disp he
    exact ⟨w.disp, htail, (disp_slice w).symm⟩
  · cases w with
    | w24 v => cases hwidth
    | w32 v => exact ⟨_, hr.addr he v rfl, (addr_slice v).symm⟩

/-! ## The register-A value of a result -/

/-- Settles O44: a result's register-A value is the ROM's answer for its own fields and target. -/
theorem registerAIsPresentExactlyOnARomHit : Obligations.RegisterAIsPresentExactlyOnARomHit := by
  intro s t r hmatch hs hout
  obtain ⟨w, -, -, hr⟩ := isResultOf_of_out_complete hs hout
  rw [hr.registerA, hmatch]
  refine ⟨?_, registerAValue_eq_none_or ..⟩
  rw [registerAValue_eq_some_iff, romEnable_firstByte_iff]
  exact ⟨fun ⟨⟨hop, hn, hi⟩, htarget, _⟩ => ⟨hop, hn, hi, htarget⟩,
    fun ⟨hop, hn, hi, htarget⟩ => ⟨⟨hop, hn, hi⟩, htarget, rfl⟩⟩

theorem relativeMode_eq_direct_iff (e p b : Bool) :
    relativeMode e p b = .direct ↔ e = false ∧ p = false ∧ b = false := by
  cases e <;> cases p <;> cases b <;> decide

/-- A displacement on its own does not reach the key (R75, R89). -/
theorem toAddr_signedDisp_ne_romKey (d : BitVec 12) : toAddr (signedDisp d) ≠ romKey := by
  intro h
  have hd := d.isLt
  have hnat := toNat_ofInt_toInt d
  rw [← signedDisp_eq_toInt, show BitVec.ofInt 20 (signedDisp d) = romKey from h, romKey, BitVec.toNat_ofNat] at hnat
  split at hnat <;> omega

/-- Settles O45: a hit needs n = i = 1 and the key as target; a Direct target is a displacement alone. -/
theorem directOrNonSimpleWordsNeverHit : Obligations.DirectOrNonSimpleWordsNeverHit := by
  intro s t r hs hout hlabel
  obtain ⟨w, -, -, hr⟩ := isResultOf_of_out_complete hs hout
  refine (registerAValue_eq_none_or ..).elim hr.registerA.trans fun hhit => ?_
  obtain ⟨henable, htarget, -⟩ := (registerAValue_eq_some_iff ..).mp hhit
  obtain ⟨-, hn, hi⟩ := (romEnable_iff ..).mp henable
  have hfields := hr.resultInvariant.fields
  rcases hlabel with hdirect | hsimple
  · rw [hfields] at hdirect
    obtain ⟨he, hp, hb⟩ := (relativeMode_eq_direct_iff r.e r.p r.b).mp (by rw [hfields]; exact hdirect)
    obtain ⟨-, hsum⟩ := hr.disp he
    rw [hp, hb] at hsum
    exact absurd (hsum.symm.trans htarget) (toAddr_signedDisp_ne_romKey _)
  · have hmode : r.addressingMode = addressingMode r.n r.i := by rw [hfields]; rfl
    rw [hn, hi] at hmode
    exact absurd hmode hsimple

/-! ## Ports -/

theorem ports_of_out_error {s : State} {k : ErrorKind} (h : s.out = .error k) :
    s.ports = errorPorts (.error k) s.freeIdx := by
  rw [State.ports, h]

theorem ports_of_out_complete {s : State} {r : DecodedInstruction} (h : s.out = .complete r) :
    s.ports = resultPorts r s.freeIdx := by
  rw [State.ports, h]

theorem ports_of_out_refused {s : State} {f : DecodedFields} (h : s.out = .refused f) :
    s.ports = fieldPorts f s.freeIdx := by
  rw [State.ports, h]

theorem ports_err (s : State) : s.ports.err = errCode s.out := by
  cases h : s.out with
  | error k => rw [ports_of_out_error h]; rfl
  | complete r => rw [ports_of_out_complete h]; rfl
  | refused f => rw [ports_of_out_refused h]; rfl

theorem ports_resultValid_iff (s : State) : s.ports.resultValid = true ↔ s.ports.err = 0#2 := by
  rw [ports_err]
  cases h : s.out with
  | error k =>
    rw [ports_of_out_error h]
    cases k <;> exact iff_of_false Bool.false_ne_true (by decide)
  | complete r => rw [ports_of_out_complete h]; exact ⟨fun _ => rfl, fun _ => rfl⟩
  | refused f => rw [ports_of_out_refused h]; exact ⟨fun _ => rfl, fun _ => rfl⟩

theorem errCode_ne_three (o : TxEnd) : errCode o ≠ 3#2 := by
  cases o with
  | error k => cases k <;> decide
  | complete | refused => exact (by decide : (0#2 : BitVec 2) ≠ 3#2)

/-- Settles O47: `err` is the code of the end, whatever the state. -/
theorem errorCodesOnThePorts : Obligations.ErrorCodesOnThePorts := by
  refine ⟨fun s h => ?_, fun s h => ?_, fun s h => ?_, fun s => ⟨?_, ports_resultValid_iff s⟩⟩
  · rw [ports_err, h]; rfl
  · rw [ports_err, h]; rfl
  · rw [ports_err]
    cases ho : s.out with
    | error k => exact absurd ho (h k)
    | complete | refused => rfl
  · rw [ports_err]
    exact errCode_ne_three _

theorem wordPort_toNat (w : InstrWord) : (wordPort w).toNat = w.value := by
  cases w with
  | w24 v => exact BitVec.toNat_setWidth_of_le (by decide)
  | w32 v => rfl

theorem addrModeCode_addressingMode (n i : Bool) :
    addrModeCode (addressingMode n i) = BitVec.ofBool n ++ BitVec.ofBool i := by
  cases n <;> cases i <;> rfl

theorem formatOf_beq_four (e : Bool) : (formatOf e == .four) = e := by
  cases e <;> rfl

theorem isConsistent_iff (w : InstrWord) (e : Bool) : isConsistent w e = true ↔ (e = true ↔ w.width = 32) := by
  cases w <;> cases e <;> simp [isConsistent]

theorem tailPort_disp_toNat (d : BitVec 12) : (tailPort (.disp d)).toNat = d.toNat :=
  BitVec.toNat_setWidth_of_le (by decide)

/-- Settles O48: the ports are those of `resultPorts`, and the labels they code are functions of the flags. -/
theorem portsShowTheResult : Obligations.PortsShowTheResult := by
  intro s t r hs hout
  obtain ⟨w, -, -, hr⟩ := isResultOf_of_out_complete hs hout
  obtain ⟨f, tail, target, a⟩ := r
  obtain rfl : f = extractFields w := hr.fields
  rw [ports_of_out_complete hout]
  refine ⟨wordPort_toNat w, rfl, rfl, rfl, rfl, rfl, rfl, rfl, formatOf_beq_four _, ?_, ?_,
    addrModeCode_addressingMode .., ?_, ?_, ?_, ?_, rfl, ?_, ?_, isConsistent_iff .., rfl, rfl⟩
  · rintro d rfl
    exact tailPort_disp_toNat d
  · rintro a rfl
    rfl
  · exact congrArg relModeCode
  · exact congrArg relModeCode
  · exact congrArg relModeCode
  · exact congrArg relModeCode
  · exact Option.isSome_iff_ne_none
  · rintro a rfl
    rfl

/-- Settles O49: a refused word is a 24-bit word with e = 1, and its ports are those of its fields. -/
theorem refusedWordShowsItsDefinedFields : Obligations.RefusedWordShowsItsDefinedFields := by
  intro s t f hs hout
  obtain ⟨w, -, ⟨-, v, rfl, hv⟩, rfl⟩ := refusedWord_of_out_refused hs hout
  have he : (extractFields (.w24 v)).e = true := (extractFields_w24_e v).trans hv
  have hrel : (extractFields (.w24 v)).relativeMode = .absoluteFormat4 :=
    (relativeMode_eq_absolute_iff ..).mpr (congrArg formatOf he)
  rw [ports_of_out_refused hout]
  refine ⟨rfl, wordPort_toNat _, rfl, rfl, rfl, rfl, rfl, rfl, he, (formatOf_beq_four _).trans he,
    congrArg relModeCode hrel, addrModeCode_addressingMode .., ?_, rfl, rfl⟩
  exact congrArg (isConsistent (.w24 v)) he

end Sys2Proof.Machine
end

section
/-! Bits of the word that reach nothing but their own copy (R40, R45, R64, R80, R81). A word with some bits inverted is
the word xor a laid-out mask, so the extractor's fields are xored one by one. -/

namespace Sys2Proof.Machine

/-! ## The extractor on a word with bits inverted -/

theorem extractFields_w24_xor (v : BitVec 24) (op : Opcode) (n i x b p e : Bool) (t : BitVec 12) :
    let f := extractFields (.w24 v)
    let w := InstrWord.w24 (v ^^^ layout24 op n i x b p e t)
    extractFields w =
      fieldsOf w (f.opcodeBits ^^^ op) (f.n ^^ n) (f.i ^^ i) (f.x ^^ x) (f.b ^^ b) (f.p ^^ p) (f.e ^^ e) := by
  intro f w
  obtain ⟨ho, hn, hi, hx, hb, hp, he, -⟩ := layout24_fields op n i x b p e t
  simp only [f, w, extractFields_w24, BitVec.extractLsb'_xor, BitVec.getLsbD_xor, ho, hn, hi, hx, hb, hp, he]
  rfl

theorem extractFields_w32_xor (v : BitVec 32) (op : Opcode) (n i x b p e : Bool) (t : BitVec 20) :
    let f := extractFields (.w32 v)
    let w := InstrWord.w32 (v ^^^ layout32 op n i x b p e t)
    extractFields w =
      fieldsOf w (f.opcodeBits ^^^ op) (f.n ^^ n) (f.i ^^ i) (f.x ^^ x) (f.b ^^ b) (f.p ^^ p) (f.e ^^ e) := by
  intro f w
  obtain ⟨ho, hn, hi, hx, hb, hp, he, -⟩ := layout32_fields op n i x b p e t
  simp only [f, w, extractFields_w32, BitVec.extractLsb'_xor, BitVec.getLsbD_xor, ho, hn, hi, hx, hb, hp, he]
  rfl

/-- The word with these bits of its opcode and of x, b, p inverted. -/
def headFlip (w : InstrWord) (op : Opcode) (x b p : Bool) : InstrWord :=
  flipBits w (layout24 op false false x b p false 0#12) (layout32 op false false x b p false 0#20)

section HeadFlip
variable (op : Opcode) (x b p : Bool)

theorem headFlip_w24 (v : BitVec 24) :
    headFlip (.w24 v) op x b p = .w24 (v ^^^ layout24 op false false x b p false 0#12) := rfl

theorem headFlip_w32 (v : BitVec 32) :
    headFlip (.w32 v) op x b p = .w32 (v ^^^ layout32 op false false x b p false 0#20) := rfl

theorem extractFields_headFlip (w : InstrWord) :
    extractFields (headFlip w op x b p) =
      fieldsOf (headFlip w op x b p) ((extractFields w).opcodeBits ^^^ op) (extractFields w).n (extractFields w).i
        ((extractFields w).x ^^ x) ((extractFields w).b ^^ b) ((extractFields w).p ^^ p) (extractFields w).e := by
  cases w with
  | w24 v => simpa only [Bool.xor_false, headFlip_w24] using extractFields_w24_xor v op false false x b p false 0#12
  | w32 v => simpa only [Bool.xor_false, headFlip_w32] using extractFields_w32_xor v op false false x b p false 0#20

theorem extractLsb'_xor_layout24 (v : BitVec 24) :
    (v ^^^ layout24 op false false x b p false 0#12).extractLsb' 0 12 = v.extractLsb' 0 12 := by
  obtain ⟨-, -, -, -, -, -, -, ht⟩ := layout24_fields op false false x b p false 0#12
  rw [BitVec.extractLsb'_xor, ht, BitVec.xor_zero]

theorem extractLsb'_xor_layout32 (v : BitVec 32) :
    (v ^^^ layout32 op false false x b p false 0#20).extractLsb' 0 20 = v.extractLsb' 0 20 := by
  obtain ⟨-, -, -, -, -, -, -, ht⟩ := layout32_fields op false false x b p false 0#20
  rw [BitVec.extractLsb'_xor, ht, BitVec.xor_zero]

theorem disp_headFlip (w : InstrWord) : (headFlip w op x b p).disp = w.disp := by
  cases w with
  | w24 v => exact extractLsb'_xor_layout24 ..
  | w32 v =>
    obtain ⟨hd, -⟩ := extract_longTail v
    obtain ⟨hd', -⟩ := extract_longTail (v ^^^ layout32 op false false x b p false 0#20)
    rw [extractLsb'_xor_layout32] at hd'
    exact hd'.trans hd.symm

end HeadFlip

/-! ## Ends alike but for the parts left out -/

theorem sameEndBut_of_reference {g : Forget} {s : State} {w w' : InstrWord}
    (h : (reference s.cfg w s.pc.toNat s.base.toNat).without g =
      (reference s.cfg w' s.pc.toNat s.base.toNat).without g) : SameEndBut g s w w' :=
  ⟨_, _, exec_decode_eq_reference w s, exec_decode_eq_reference w' s, h⟩

/-- The ROM answers alike for the two records, whatever the target. -/
def SameLookup (m : OpMatch) (f f' : DecodedFields) : Prop :=
  ∀ target, registerAValue m f.opcodeBits f.n f.i target = registerAValue m f'.opcodeBits f'.n f'.i target

theorem completeEnd_without {g : Forget} {f f' : DecodedFields} {m : OpMatch} (hf : f.without g = f'.without g)
    (hrom : SameLookup m f f') (tail : Tail) (target : Addr) :
    (completeEnd m f tail target).without g = (completeEnd m f' tail target).without g := by
  simp only [completeEnd, TxEnd.without, hf, hrom target]

theorem shortEnd_without {g : Forget} {f f' : DecodedFields} {cfg : Config} (hf : f.without g = f'.without g)
    (hrom : SameLookup cfg.opMatch f f') (t : BitVec 12) :
    (shortEnd cfg f t).without g = (shortEnd cfg f' t).without g := by
  unfold shortEnd
  cases cfg.shortF4Policy with
  | refuse => exact congrArg TxEnd.refused hf
  | truncate12 => exact completeEnd_without hf hrom ..
  | zeroFill => exact completeEnd_without hf hrom ..

/-- The Format 3 sum depends on the flags through the relative mode alone. -/
theorem format3Sum_of_relativeMode_eq {b b' p p' : Bool} (h : relativeMode false p b = relativeMode false p' b')
    (d : BitVec 12) (pc base : Nat) : format3Sum b p d pc base = format3Sum b' p' d pc base := by
  cases p <;> cases p' <;> cases b <;> cases b' <;> cases h <;> rfl

theorem sameEndBut_of_e_false {g : Forget} {s : State} {w w' : InstrWord} (he : (extractFields w).e = false)
    (hf : (extractFields w).without g = (extractFields w').without g) (hdisp : w.disp = w'.disp)
    (hrom : SameLookup s.cfg.opMatch (extractFields w) (extractFields w')) : SameEndBut g s w w' := by
  have he' : (extractFields w').e = false := (congrArg DecodedFields.e hf).symm.trans he
  have hmode : relativeMode (extractFields w).e (extractFields w).p (extractFields w).b =
      relativeMode (extractFields w').e (extractFields w').p (extractFields w').b :=
    congrArg DecodedFields.relativeMode hf
  rw [he, he'] at hmode
  apply sameEndBut_of_reference
  rw [reference_of_e_false he, reference_of_e_false he', hdisp, format3Sum_of_relativeMode_eq hmode]
  exact completeEnd_without hf hrom ..

theorem ite_eq_ite_of_false {α : Type} {c : Bool} {z a a' : α} (h : c = false → a = a') :
    (if c then z else a) = if c then z else a' := by
  cases c with
  | false => exact h rfl
  | true => rfl

/-- Inverting bits of the opcode and of x, b, p changes nothing but the copies, when it changes neither the relative
mode nor the lookup. -/
theorem sameEndBut_headFlip {g : Forget} {s : State} {w : InstrWord} {op : Opcode} {x b p : Bool}
    (hop : g.op = false → op = 0#6) (hx : g.x = false → x = false) (hb : g.b = false → b = false)
    (hp : g.p = false → p = false)
    (hmode : relativeMode (extractFields w).e (extractFields w).p (extractFields w).b =
      relativeMode (extractFields w).e ((extractFields w).p ^^ p) ((extractFields w).b ^^ b))
    (hrom : SameLookup s.cfg.opMatch (extractFields w) (extractFields (headFlip w op x b p))) :
    SameEndBut g s w (headFlip w op x b p) := by
  have hflip := extractFields_headFlip op x b p w
  have hf : (extractFields w).without g = (extractFields (headFlip w op x b p)).without g := by
    rw [hflip]
    simp only [DecodedFields.without, fieldsOf, DecodedFields.mk.injEq, true_and]
    refine ⟨ite_eq_ite_of_false fun h => ?_, ite_eq_ite_of_false fun h => ?_, ite_eq_ite_of_false fun h => ?_,
      ite_eq_ite_of_false fun h => ?_, rfl, rfl, hmode⟩
    · rw [hop h, BitVec.xor_zero]
    · rw [hx h, Bool.xor_false]
    · rw [hb h, Bool.xor_false]
    · rw [hp h, Bool.xor_false]
  cases he : (extractFields w).e with
  | false => exact sameEndBut_of_e_false he hf (disp_headFlip op x b p w).symm hrom
  | true =>
    have he' : (extractFields (headFlip w op x b p)).e = true := (congrArg DecodedFields.e hf).symm.trans he
    apply sameEndBut_of_reference
    cases w with
    | w24 v =>
      rw [headFlip_w24] at hf hrom he' ⊢
      rw [reference_w24_of_e_true he, reference_w24_of_e_true he', extractLsb'_xor_layout24]
      exact shortEnd_without hf hrom _
    | w32 v =>
      rw [headFlip_w32] at hf hrom he' ⊢
      rw [reference_w32_of_e_true he, reference_w32_of_e_true he', extractLsb'_xor_layout32]
      exact completeEnd_without hf hrom ..

/-- Inverting flags alone does not reach the lookup. -/
theorem sameLookup_headFlip_flags (m : OpMatch) (w : InstrWord) (x b p : Bool) :
    SameLookup m (extractFields w) (extractFields (headFlip w 0#6 x b p)) := by
  intro target
  rw [extractFields_headFlip, BitVec.xor_zero]
  rfl

/-! ## The ignored bits -/

/-- Settles O32: the mask inverts x, which neither the relative mode nor the lookup reads. -/
theorem indexFlagHasNoEffect : Obligations.IndexFlagHasNoEffect :=
  fun s w => sameEndBut_headFlip (op := 0#6) (x := true) (b := false) (p := false) (fun _ => rfl) nofun (fun _ => rfl)
    (fun _ => rfl) (by simp only [Bool.xor_false]) (sameLookup_headFlip_flags _ w _ _ _)

/-- Settles O33: with p = 1 the relative mode is the same for both values of b. -/
theorem pcRelativeWinsOverBase : Obligations.PcRelativeWinsOverBase := by
  intro s w he hp
  constructor
  · refine ⟨_, _, exec_decode_eq_reference w s, reference_of_e_false he .., ?_⟩
    change relativeMode (extractFields w).e (extractFields w).p (extractFields w).b = .pcRelative
    rw [he, hp]
    rfl
  · refine sameEndBut_headFlip (op := 0#6) (x := false) (b := true) (p := false) (fun _ => rfl) (fun _ => rfl) nofun
      (fun _ => rfl) ?_ (sameLookup_headFlip_flags _ w _ _ _)
    rw [he, hp]
    rfl

/-- Settles O34: with e = 1 the relative mode is AbsoluteFormat4 for every b and p. -/
theorem formatFourIgnoresBaseAndPcFlags : Obligations.FormatFourIgnoresBaseAndPcFlags := by
  intro s w he
  have hflip (b p : Bool) : SameEndBut { b := true, p := true } s w (headFlip w 0#6 false b p) :=
    sameEndBut_headFlip (fun _ => rfl) (fun _ => rfl) nofun nofun (by rw [he]; rfl)
      (sameLookup_headFlip_flags _ w _ _ _)
  exact ⟨hflip true false, hflip false true, hflip true true⟩

theorem registerAValue_firstByte_of_ne_zero {op : Opcode} (hop : op ≠ 0) (n i : Bool) (target : Addr) :
    registerAValue .firstByte op n i target = none := by
  refine (registerAValue_eq_none_or ..).resolve_right fun h => ?_
  obtain ⟨henable, -, -⟩ := (registerAValue_eq_some_iff ..).mp h
  obtain ⟨hzero, -, -⟩ := (romEnable_firstByte_iff ..).mp henable
  exact hop hzero

/-- The mask of an opcode is the layout of that opcode alone. -/
theorem flipBits_opcode (w : InstrWord) (m : BitVec 6) :
    flipBits w (m ++ 0#18) (m ++ 0#26) = headFlip w m false false false := by
  have h24 : m ++ 0#18 = layout24 m false false false false false false 0#12 := by
    apply BitVec.eq_of_toNat_eq
    rw [append_toNat_mul, layout24_toNat]
    simp
  have h32 : m ++ 0#26 = layout32 m false false false false false false 0#20 := by
    apply BitVec.eq_of_toNat_eq
    rw [append_toNat_mul, layout32_toNat]
    simp
  rw [h24, h32]
  rfl

/-- Settles O36: under `first_byte` the opcode matters to the lookup only, and no opcode but 000000 is looked up. -/
theorem opcodesOtherThanZeroAreTreatedAlike : Obligations.OpcodesOtherThanZeroAreTreatedAlike := by
  intro s w m hmatch hop hop'
  rw [flipBits_opcode]
  refine sameEndBut_headFlip nofun (fun _ => rfl) (fun _ => rfl) (fun _ => rfl) (by simp only [Bool.xor_false])
    fun target => ?_
  rw [extractFields_headFlip, hmatch, registerAValue_firstByte_of_ne_zero hop]
  exact (registerAValue_firstByte_of_ne_zero hop' ..).symm

theorem setWidth_byte_eq_layout32 (z : Byte) :
    z.setWidth 32 = layout32 0#6 false false false false false false (longTail 0#12 z) := by
  apply BitVec.eq_of_toNat_eq
  rw [layout32_toNat, longTail, append_toNat_mul, BitVec.toNat_setWidth_of_le (by decide)]
  simp

/-- Settles O35: the last byte is below the displacement field of a long Format 3 word. -/
theorem lastByteOfLongFormatThreeIsIgnored : Obligations.LastByteOfLongFormatThreeIsIgnored := by
  intro s v z hv
  have hxor := extractFields_w32_xor v 0#6 false false false false false false (longTail 0#12 z)
  simp only [Bool.xor_false, BitVec.xor_zero] at hxor
  have hmaskDisp : (layout32 0#6 false false false false false false (longTail 0#12 z)).extractLsb' 8 12 = 0#12 := by
    obtain ⟨hd, -⟩ := longTail_fields 0#12 z
    exact (disp_layout32 0#6 false false false false false false (longTail 0#12 z)).trans hd
  rw [setWidth_byte_eq_layout32]
  refine sameEndBut_of_e_false ((extractFields_w32_e v).trans hv) ?_ ?_ ?_
  · rw [hxor]; rfl
  · rw [InstrWord.disp, InstrWord.disp, BitVec.extractLsb'_xor, hmaskDisp, BitVec.xor_zero]
  · rw [hxor]; exact fun _ => rfl

end Sys2Proof.Machine
end

section
/-! The short Format 4 classes (R77) and the overlay rows (R46, R88): a class built from its flags ends by the policy,
and an overlay row ends as its SIMPLE class, on whose words the ROM is enabled. -/

namespace Sys2Proof.Machine

theorem shortFormat4Class_ends (op : Opcode) (n i x b p : Bool) (t : BitVec 12) (s : State) :
    ShortClassEnds s (shortFormat4Class op n i x b p t) op n i x b p (addressingMode n i) t := by
  have hexec := (exec_shortFormat4Class op n i x b p t s).trans (shortFormat4_eq_shortEnd op n i x b p t s)
  rw [shortEnd, truncatedTarget_eq, zeroFilledTarget_eq] at hexec
  have hword := encode_shortFormat4Class op n i x b p t
  refine ⟨fun hpolicy => endsWith_of_exec_eq ?_, fun hpolicy => endsWith_of_exec_eq ?_,
    fun hpolicy => endsWith_of_exec_eq ?_⟩ <;>
  · rw [hexec, hpolicy, hword]
    rfl

/-- Settles O5: each class is `e = 1` in a 24-bit word with its (n, i). -/
theorem shortFormat4ClassesFollowPolicy : Obligations.ShortFormat4ClassesFollowPolicy := by
  intro op x b p t s
  have ends n i := shortFormat4Class_ends op n i x b p t s
  exact ⟨ends true true, ends true false, ends false true, ends false false⟩

/-! ## The overlay rows -/

theorem endsWith_of_toClass {i : Instr} {s : State} {o : TxEnd} (h : EndsWith i.toClass s o) : EndsWith i s o := by
  obtain ⟨t, hexec, hframe⟩ := h
  exact ⟨t, (exec_toClass i s).symm.trans hexec, hframe⟩

/-- With opcode 000000 and n = i = 1 the ROM is enabled under either reading of `OPMATCH`. -/
theorem registerAValue_zero_true_true (m : OpMatch) (target : Addr) :
    registerAValue m 0 true true target = if target = 0x03600#20 then some 0x103000#24 else none :=
  registerAValue_of_romEnable (by cases m <;> decide) target

/-- The Format 3 target by p, then b, with the displacement as a two's-complement number (R84). -/
theorem resolveFormat3_eq_ofInt (b p : Bool) (d : BitVec 12) (s : State) :
    resolveFormat3 b p d s =
      BitVec.ofInt 20 (if p then (s.pc.toNat : Int) + d.toInt else if b then (s.base.toNat : Int) + d.toInt
        else d.toInt) := by
  cases p with
  | true => exact resolveFormat3_p b d s
  | false =>
    cases b with
    | true => exact resolveFormat3_b d s
    | false => exact resolveFormat3_neither d s

/-- Settles O6: the row's word is that of `format3Class` or `shortFormat4Class` with opcode 000000 and n = i = 1. -/
theorem romOverlayShortWordEnds : Obligations.RomOverlayShortWordEnds := by
  intro x b p t s
  have hdisp := format3Class_ends (resolveFormat3_eq_ofInt b p t s) 0 x true true
  obtain ⟨hrefuse, htruncate, hfill⟩ := shortFormat4Class_ends 0 true true x b p t s
  simp only [DispClassEnds, AbsClassEnds, registerAValue_zero_true_true, encode_format3Class,
    encode_shortFormat4Class] at hdisp hrefuse htruncate hfill
  exact ⟨endsWith_of_toClass hdisp, fun h => endsWith_of_toClass (hrefuse h),
    fun h => endsWith_of_toClass (htruncate h), fun h => endsWith_of_toClass (hfill h)⟩

/-- Settles O7: the row's word is that of `longFormat3Class` or `format4Class` with opcode 000000 and n = i = 1. -/
theorem romOverlayLongWordEnds : Obligations.RomOverlayLongWordEnds := by
  intro x b p t s
  have hdisp := longFormat3Class_ends (resolveFormat3_eq_ofInt b p (t.extractLsb' 8 12) s) 0 x (t.extractLsb' 0 8)
    true true
  have habs := format4Class_ends 0 true true x b p t s
  simp only [DispClassEnds, AbsClassEnds, registerAValue_zero_true_true, encode_longFormat3Class, longTail_eta,
    encode_format4Class] at hdisp habs
  exact ⟨endsWith_of_toClass hdisp, endsWith_of_toClass habs⟩

end Sys2Proof.Machine
end

section
/-! The text front-end (40_frontend_normalize.md R50 to R58): what each step of `normalize` does, and that a hex text
and the number it denotes determine each other. -/

namespace Sys2Proof.Machine

/-! ## Trimming -/

theorem trim_eq_rdropWhile (ws t : List Byte) : trim ws t = (t.dropWhile ws.contains).rdropWhile ws.contains := rfl

/-- Settles O16: the two ends cut off are the runs that `takeWhile` and `rtakeWhile` give. -/
theorem trimRemovesTheLongestBlankEnds : Obligations.TrimRemovesTheLongestBlankEnds := by
  intro ws raw
  rw [trim_eq_rdropWhile]
  refine ⟨⟨raw.takeWhile ws.contains, (raw.dropWhile ws.contains).rtakeWhile ws.contains, ?_, ?_, ?_⟩, ?_, ?_⟩
  · rw [List.append_assoc, List.rdropWhile_append_rtakeWhile, List.takeWhile_append_dropWhile]
  · intro c hc
    exact List.contains_iff_mem.mp (List.mem_takeWhile_imp hc)
  · intro c hc
    exact List.contains_iff_mem.mp (List.mem_rtakeWhile_imp hc)
  · intro c hc hmem
    obtain ⟨suffix, hsuffix⟩ := List.rdropWhile_prefix ws.contains (l := raw.dropWhile ws.contains)
    obtain ⟨rest, hrest⟩ := List.head?_eq_some_iff.mp hc
    have hhead := List.head?_dropWhile_not ws.contains raw
    rw [← hsuffix, hrest, List.cons_append, List.head?_cons] at hhead
    exact Bool.eq_false_iff.mp hhead (List.contains_iff_mem.mpr hmem)
  · intro c hc hmem
    obtain ⟨hne, rfl⟩ := List.mem_getLast?_eq_getLast hc
    exact List.rdropWhile_last_not _ _ hne (List.contains_iff_mem.mpr hmem)

/-- Blank ends go, and a text without blanks stays. -/
theorem trim_append_append {ws front mid back : List Byte} (hfront : ∀ c ∈ front, c ∈ ws) (hback : ∀ c ∈ back, c ∈ ws)
    (hmid : ∀ c ∈ mid, c ∉ ws) (hne : mid ≠ []) : trim ws (front ++ mid ++ back) = mid := by
  have hblank {l : List Byte} (h : ∀ c ∈ l, c ∈ ws) : ∀ c ∈ l, ws.contains c = true :=
    fun c hc => List.contains_iff_mem.mpr (h c hc)
  have hkeep {c : Byte} (hc : c ∈ mid) : ¬ ws.contains c = true := fun h => hmid c hc (List.contains_iff_mem.mp h)
  have hleft : (mid ++ back).dropWhile ws.contains = mid ++ back := by
    rw [List.dropWhile_eq_self_iff]
    intro hl
    rw [List.getElem_append_left (List.length_pos_iff.mpr hne)]
    exact hkeep (List.getElem_mem _)
  have hright : mid.reverse.dropWhile ws.contains = mid.reverse := by
    rw [List.dropWhile_eq_self_iff]
    intro hl
    exact hkeep (List.mem_reverse.mp (List.getElem_mem _))
  rw [trim, List.append_assoc, List.dropWhile_append_of_pos (hblank hfront), hleft, List.reverse_append,
    List.dropWhile_append_of_pos (hblank fun c hc => hback c (List.mem_reverse.mp hc)), hright, List.reverse_reverse]

/-! ## Letter case and the hex mark -/

theorem lowerByte_toNat {c : Byte} (hc : 0x41 ≤ c.toNat ∧ c.toNat ≤ 0x5A) : (lowerByte c).toNat = c.toNat + 0x20 := by
  rw [lowerByte, if_pos hc, BitVec.toNat_add, BitVec.toNat_ofNat]
  omega

theorem lowerByte_of_not_capital {c : Byte} (hc : ¬(0x41 ≤ c.toNat ∧ c.toNat ≤ 0x5A)) : lowerByte c = c :=
  if_neg hc

@[simp] theorem stripHexMark_mark (rest : List Byte) : stripHexMark (0x30#8 :: 0x78#8 :: rest) = rest := rfl

theorem stripHexMark_of_no_mark {t : List Byte} (ht : ¬∃ rest, t = 0x30#8 :: 0x78#8 :: rest) : stripHexMark t = t := by
  unfold stripHexMark
  split
  next a b rest =>
    refine if_neg ?_
    rintro ⟨rfl, rfl⟩
    exact ht ⟨rest, rfl⟩
  next => rfl

/-- Settles O17: the branches of `lowerByte` and of `stripHexMark`. -/
theorem lowercaseAndHexMarkFollowTheirRules : Obligations.LowercaseAndHexMarkFollowTheirRules :=
  ⟨fun _ => ⟨lowerByte_toNat, lowerByte_of_not_capital⟩, stripHexMark_mark, fun _ => stripHexMark_of_no_mark⟩

/-! ## `normalize` by its cases -/

theorem tooLong_of_none {cfg : Config} (h : cfg.maxChars = none) (raw : List Byte) : tooLong cfg raw = false := by
  rw [tooLong, h]

theorem tooLong_of_some {cfg : Config} {m : Nat} (h : cfg.maxChars = some m) (raw : List Byte) :
    tooLong cfg raw = decide (m < raw.length) := by
  rw [tooLong, h]

/-- The line fits the buffer, and its cleaned text is as long as a word's digits (R50, R54). -/
def Fits (cfg : Config) (raw : List Byte) : Prop :=
  tooLong cfg raw = false ∧ ((cleaned cfg.ws raw).length = 6 ∨ (cleaned cfg.ws raw).length = 8)

section Normalize
variable {cfg : Config} {raw : List Byte}

theorem normalize_of_not_fits (h : ¬ Fits cfg raw) : normalize cfg raw = .error .invalidLength := by
  refine if_pos ?_
  rw [Fits] at h
  cases hl : tooLong cfg raw with
  | true => exact .inl rfl
  | false => exact .inr (not_or.mp fun hlen => h ⟨hl, hlen⟩)

theorem normalize_of_fits (h : Fits cfg raw) :
    normalize cfg raw =
      if (cleaned cfg.ws raw).all isHexDigit then .digits (cleaned cfg.ws raw) else .error .invalidHexDigits := by
  obtain ⟨hl, hlen⟩ := h
  refine if_neg ?_
  rintro (h | ⟨h6, h8⟩)
  · cases hl.symm.trans h
  · exact hlen.elim h6 h8

theorem normalize_eq_invalidLength_iff : normalize cfg raw = .error .invalidLength ↔ ¬ Fits cfg raw := by
  refine ⟨fun h hfits => ?_, normalize_of_not_fits⟩
  rw [normalize_of_fits hfits] at h
  split at h <;> cases h

theorem normalize_eq_invalidHexDigits_iff :
    normalize cfg raw = .error .invalidHexDigits ↔
      Fits cfg raw ∧ ∃ c ∈ cleaned cfg.ws raw, isHexDigit c = false := by
  by_cases hfits : Fits cfg raw
  · rw [normalize_of_fits hfits]
    simp [hfits]
  · rw [normalize_of_not_fits hfits]
    simp [hfits]

theorem normalize_eq_digits_iff {h : List Byte} :
    normalize cfg raw = .digits h ↔
      Fits cfg raw ∧ h = cleaned cfg.ws raw ∧ ∀ c ∈ cleaned cfg.ws raw, isHexDigit c = true := by
  by_cases hfits : Fits cfg raw
  · rw [normalize_of_fits hfits]
    split
    next hall =>
      constructor
      · intro h'
        exact ⟨hfits, (Normalized.digits.inj h').symm, List.all_eq_true.mp hall⟩
      · rintro ⟨-, rfl, -⟩
        rfl
    next hall => exact ⟨nofun, fun ⟨_, _, hdigits⟩ => absurd (List.all_eq_true.mpr hdigits) hall⟩
  · rw [normalize_of_not_fits hfits]
    simp [hfits]

theorem fits_of_none (h : cfg.maxChars = none) :
    Fits cfg raw ↔ (cleaned cfg.ws raw).length = 6 ∨ (cleaned cfg.ws raw).length = 8 := by
  rw [Fits, tooLong_of_none h]
  exact and_iff_right rfl

end Normalize

/-- A line of at most the limit is treated as with no limit. -/
theorem normalize_of_length_le {cfg : Config} {raw : List Byte} (h : tooLong cfg raw = false) :
    normalize cfg raw = normalize { cfg with maxChars := none } raw := by
  rw [normalize, normalize, h]
  rfl

/-- Settles O18: `Fits` decides the first check and the digits the second; a limit matters to `Fits` only. -/
theorem normalizeChecksLengthThenDigits : Obligations.NormalizeChecksLengthThenDigits := by
  intro cfg raw
  refine ⟨fun hnone => ⟨?_, ?_, fun h => ?_⟩, fun m hsome => ⟨fun hlong => ?_, fun hshort => ?_⟩⟩
  · rw [normalize_eq_invalidLength_iff, fits_of_none hnone, not_or]
  · rw [normalize_eq_invalidHexDigits_iff, fits_of_none hnone]
  · rw [normalize_eq_digits_iff, fits_of_none hnone]
    constructor
    · rintro ⟨hlen, rfl, hdigits⟩
      exact ⟨rfl, hlen, hdigits⟩
    · rintro ⟨rfl, hlen, hdigits⟩
      exact ⟨hlen, rfl, hdigits⟩
  · refine normalize_of_not_fits fun ⟨hfits, _⟩ => ?_
    rw [tooLong_of_some hsome] at hfits
    exact of_decide_eq_false hfits hlong
  · apply normalize_of_length_le
    rw [tooLong_of_some hsome]
    exact decide_eq_false (Nat.not_lt.mpr hshort)

/-! ## Hex digits -/

theorem isHexDigit_iff (c : Byte) :
    isHexDigit c = true ↔ (0x30 ≤ c.toNat ∧ c.toNat ≤ 0x39) ∨ (0x61 ≤ c.toNat ∧ c.toNat ≤ 0x66) := by
  simp [isHexDigit]

theorem digitValue_lt {c : Byte} (hc : isHexDigit c = true) : digitValue c < 16 := by
  rw [isHexDigit_iff] at hc
  unfold digitValue
  split <;> omega

theorem hexChar_digitValue {c : Byte} (hc : isHexDigit c = true) : hexChar (digitValue c) = c := by
  rw [isHexDigit_iff] at hc
  apply BitVec.eq_of_toNat_eq
  unfold hexChar digitValue
  split <;> split <;> rw [BitVec.toNat_ofNat] <;> omega

theorem isHexDigit_hexChar {d : Nat} (hd : d < 16) : isHexDigit (hexChar d) = true := by
  rw [isHexDigit_iff]
  unfold hexChar
  split <;> rw [BitVec.toNat_ofNat] <;> omega

theorem digitValue_hexChar {d : Nat} (hd : d < 16) : digitValue (hexChar d) = d := by
  unfold hexChar digitValue
  split <;> rw [BitVec.toNat_ofNat] <;> split <;> omega

theorem lowerByte_of_isHexDigit {c : Byte} (hc : isHexDigit c = true) : lowerByte c = c := by
  rw [isHexDigit_iff] at hc
  exact lowerByte_of_not_capital (by omega)

theorem stripHexMark_of_isHexDigit {t : List Byte} (ht : ∀ c ∈ t, isHexDigit c = true) : stripHexMark t = t := by
  apply stripHexMark_of_no_mark
  rintro ⟨rest, rfl⟩
  have hx : isHexDigit 0x78#8 = true := ht _ (List.mem_cons_of_mem _ List.mem_cons_self)
  exact absurd hx (by decide)

/-! ## Base-16 digits, whatever their characters -/

/-- The `n` base-16 digits of a number, most significant first, each as the character `f` gives it. -/
def digitList {α : Type} (f : Nat → α) (n v : Nat) : List α :=
  (List.range n).map fun k => f (v / 16 ^ (n - 1 - k) % 16)

section DigitList
variable {α : Type} {f : Nat → α}

@[simp] theorem length_digitList (n v : Nat) : (digitList f n v).length = n := by
  simp [digitList]

theorem mem_digitList {n v : Nat} {c : α} (hc : c ∈ digitList f n v) : ∃ d < 16, c = f d := by
  obtain ⟨k, -, rfl⟩ := List.mem_map.mp hc
  exact ⟨_, Nat.mod_lt _ (by decide), rfl⟩

/-- The last digit is the remainder by 16, the others are the digits of the quotient. -/
theorem digitList_succ (n v : Nat) : digitList f (n + 1) v = digitList f n (v / 16) ++ [f (v % 16)] := by
  have hinit : ∀ k ∈ List.range n, f (v / 16 ^ (n - k) % 16) = f (v / 16 / 16 ^ (n - 1 - k) % 16) := by
    intro k hk
    have hk' := List.mem_range.mp hk
    rw [Nat.div_div_eq_div_mul, ← pow_succ', show n - 1 - k + 1 = n - k by omega]
  simp only [digitList, List.range_succ, List.map_append, List.map_singleton, Nat.add_sub_cancel, Nat.sub_self,
    pow_zero, Nat.div_one, List.map_congr_left hinit]

/-- The first digit, and the digits after it. -/
theorem digitList_succ_cons (n v : Nat) : digitList f (n + 1) v = f (v / 16 ^ n % 16) :: digitList f n v := by
  have htail : ∀ k ∈ List.range n, f (v / 16 ^ (n - (k + 1)) % 16) = f (v / 16 ^ (n - 1 - k) % 16) := by
    intro k _
    rw [show n - (k + 1) = n - 1 - k by omega]
  simp only [digitList, List.range_succ_eq_map, List.map_cons, List.map_map, Function.comp_def, Nat.add_sub_cancel,
    Nat.sub_zero, Nat.succ_eq_add_one, List.map_congr_left htail]

/-- The digits of a number denote it, for digits that `g` reads back. -/
theorem foldl_digitList {g : α → Nat} (hg : ∀ d < 16, g (f d) = d) {n v : Nat} (hv : v < 16 ^ n) :
    (digitList f n v).foldl (fun acc c => 16 * acc + g c) 0 = v := by
  induction n generalizing v with
  | zero => exact (Nat.lt_one_iff.mp hv).symm
  | succ n ih =>
    rw [digitList_succ, List.foldl_append, ih (Nat.div_lt_of_lt_mul (by rwa [← pow_succ']))]
    change 16 * (v / 16) + g (f (v % 16)) = v
    rw [hg _ (Nat.mod_lt _ (by decide)), Nat.div_add_mod]

end DigitList

/-! ## A hex text and its number -/

theorem hexText_eq_digitList (n v : Nat) : hexText n v = digitList hexChar n v := rfl

theorem hexValue_concat (t : List Byte) (c : Byte) : hexValue (t ++ [c]) = 16 * hexValue t + digitValue c :=
  List.foldl_append

@[simp] theorem length_hexText (n v : Nat) : (hexText n v).length = n :=
  length_digitList n v

theorem isHexDigit_of_mem_hexText {n v : Nat} {c : Byte} (hc : c ∈ hexText n v) : isHexDigit c = true := by
  obtain ⟨d, hd, rfl⟩ := mem_digitList hc
  exact isHexDigit_hexChar hd

theorem hexValue_hexText {n v : Nat} (hv : v < 16 ^ n) : hexValue (hexText n v) = v :=
  foldl_digitList (fun _ => digitValue_hexChar) hv

/-- A text of hex digits denotes a number of that many digits, and is the text of that number. -/
theorem hexText_hexValue {t : List Byte} (ht : ∀ c ∈ t, isHexDigit c = true) :
    hexValue t < 16 ^ t.length ∧ hexText t.length (hexValue t) = t := by
  induction t using List.reverseRecOn with
  | nil => exact ⟨by decide, rfl⟩
  | append_singleton t c ih =>
    obtain ⟨hlt, htext⟩ := ih fun c' hc' => ht c' (List.mem_append_left _ hc')
    have hc := ht c List.mem_concat_self
    have hd := digitValue_lt hc
    rw [hexValue_concat, List.length_append, List.length_singleton, hexText_eq_digitList,
      digitList_succ, ← hexText_eq_digitList, pow_succ,
      show (16 * hexValue t + digitValue c) / 16 = hexValue t by omega,
      show (16 * hexValue t + digitValue c) % 16 = digitValue c by omega, htext, hexChar_digitValue hc]
    exact ⟨by omega, rfl⟩

theorem width_parseHex {h : List Byte} (hlen : h.length = 6 ∨ h.length = 8) : (parseHex h).width = 4 * h.length := by
  rcases hlen with hlen | hlen <;> simp [parseHex, hlen]

theorem value_parseHex {h : List Byte} (hlen : h.length = 6 ∨ h.length = 8) (hdigits : ∀ c ∈ h, isHexDigit c = true) :
    (parseHex h).value = hexValue h := by
  obtain ⟨hlt, -⟩ := hexText_hexValue hdigits
  rcases hlen with hlen | hlen <;> rw [hlen] at hlt <;> simp [parseHex, hlen, InstrWord.value] <;> omega

/-- Settles O19: the text of a number and the number of a text determine each other, at both widths. -/
theorem acceptedTextIsTheWordsHexDigits : Obligations.AcceptedTextIsTheWordsHexDigits := by
  intro cfg raw h hnorm
  obtain ⟨⟨-, hlen⟩, rfl, hdigits⟩ := normalize_eq_digits_iff.mp hnorm
  have hwidth := width_parseHex hlen
  have hvalue := value_parseHex hlen hdigits
  refine ⟨?_, hwidth, hvalue, (InstrWord.bitsValue_bits _).trans hvalue⟩
  rw [hexDigits, hwidth, hvalue, Nat.mul_div_cancel_left _ (by decide)]
  exact (hexText_hexValue hdigits).2

theorem hexDigits_w24 (v : BitVec 24) : hexDigits (.w24 v) = hexText 6 v.toNat := by
  simp [hexDigits, InstrWord.value]

theorem hexDigits_w32 (v : BitVec 32) : hexDigits (.w32 v) = hexText 8 v.toNat := by
  simp [hexDigits, InstrWord.value]

theorem length_hexDigits (w : InstrWord) : (hexDigits w).length = 6 ∨ (hexDigits w).length = 8 := by
  cases w with
  | w24 v => exact .inl (by rw [hexDigits_w24, length_hexText])
  | w32 v => exact .inr (by rw [hexDigits_w32, length_hexText])

/-- The digits of a word parse to that word. -/
theorem parseHex_hexDigits (w : InstrWord) : parseHex (hexDigits w) = w := by
  cases w with
  | w24 v =>
    rw [hexDigits_w24, parseHex, length_hexText, if_neg (by decide), hexValue_hexText v.isLt, BitVec.ofNat_toNat,
      BitVec.setWidth_eq]
  | w32 v =>
    rw [hexDigits_w32, parseHex, length_hexText, if_pos rfl, hexValue_hexText v.isLt, BitVec.ofNat_toNat,
      BitVec.setWidth_eq]

/-! ## Accepted texts -/

/-- A text of hex digits, with or without a mark and letters in either case, between blanks, cleans to its digits. -/
theorem cleaned_dressed {ws front mark digits back h : List Byte} (hfront : ∀ c ∈ front, c ∈ ws)
    (hback : ∀ c ∈ back, c ∈ ws) (hmid : ∀ c ∈ mark ++ digits, c ∉ ws) (hne : digits ≠ [])
    (hmark : mark.map lowerByte = [] ∨ mark.map lowerByte = [0x30#8, 0x78#8]) (hdigits : digits.map lowerByte = h)
    (hh : ∀ c ∈ h, isHexDigit c = true) : cleaned ws (front ++ mark ++ digits ++ back) = h := by
  rw [cleaned, List.append_assoc front, trim_append_append hfront hback hmid (List.append_ne_nil_of_right_ne_nil _ hne),
    List.map_append, hdigits]
  rcases hmark with hmark | hmark <;> rw [hmark]
  · exact stripHexMark_of_isHexDigit hh
  · exact stripHexMark_mark h

theorem ne_nil_of_length {t : List Byte} (ht : t.length = 6 ∨ t.length = 8) : t ≠ [] := by
  rintro rfl
  simp at ht

/-- Settles O20: an accepted text has no blanks, no capitals and no mark, so cleaning leaves it as it is. -/
theorem normalizeIsIdempotent : Obligations.NormalizeIsIdempotent := by
  intro cfg raw h hnone hws hnorm
  obtain ⟨⟨-, hlen⟩, rfl, hdigits⟩ := normalize_eq_digits_iff.mp hnorm
  have hlower : (cleaned cfg.ws raw).map lowerByte = cleaned cfg.ws raw :=
    (List.map_congr_left fun c hc => lowerByte_of_isHexDigit (hdigits c hc)).trans (List.map_id' _)
  have hclean : cleaned cfg.ws (cleaned cfg.ws raw) = cleaned cfg.ws raw := by
    have hblank : ∀ c ∈ [] ++ cleaned cfg.ws raw, c ∉ cfg.ws := fun c hc hmem =>
      Bool.eq_false_iff.mp (hws c hmem) (hdigits c hc)
    simpa using cleaned_dressed (front := []) (mark := []) (back := []) nofun nofun hblank (ne_nil_of_length hlen)
      (.inl rfl) hlower hdigits
  rw [normalize_eq_digits_iff, fits_of_none hnone, hclean]
  exact ⟨hlen, rfl, hdigits⟩

/-- No blank of the default set is a hex digit in either case. -/
theorem not_mem_defaultWs_of_isHexDigit {c : Byte} (hc : isHexDigit (lowerByte c) = true) : c ∉ defaultWs := by
  have hws : ∀ c ∈ defaultWs, isHexDigit (lowerByte c) = false := by decide
  exact fun hmem => Bool.eq_false_iff.mp (hws c hmem) hc

/-- No character of a mark is a blank of the default set. -/
theorem not_mem_defaultWs_of_mem_mark {mark : List Byte}
    (hmark : mark = [] ∨ mark = [0x30#8, 0x78#8] ∨ mark = [0x30#8, 0x58#8]) : ∀ c ∈ mark, c ∉ defaultWs := by
  rcases hmark with rfl | rfl | rfl <;> decide

/-- Settles O21: no digit and no mark is a blank, and the digits of a word parse to it. -/
theorem everyWordIsReachedByItsTexts : Obligations.EveryWordIsReachedByItsTexts := by
  intro cfg w front mark digits back hnone hws hfront hback hmark hdigits
  have hhex : ∀ c ∈ hexDigits w, isHexDigit c = true := fun c => isHexDigit_of_mem_hexText
  have hblank : ∀ c ∈ mark ++ digits, c ∉ cfg.ws := by
    intro c hc
    rw [hws]
    rcases List.mem_append.mp hc with hc | hc
    · exact not_mem_defaultWs_of_mem_mark hmark c hc
    · apply not_mem_defaultWs_of_isHexDigit
      apply hhex
      rw [← hdigits]
      exact List.mem_map_of_mem hc
  have hlower : mark.map lowerByte = [] ∨ mark.map lowerByte = [0x30#8, 0x78#8] := by
    rcases hmark with rfl | rfl | rfl
    · exact .inl rfl
    · exact .inr rfl
    · exact .inr rfl
  have hne : digits ≠ [] := by
    rintro rfl
    exact ne_nil_of_length (length_hexDigits w) hdigits.symm
  have hclean := cleaned_dressed hfront hback hblank hne hlower hdigits hhex
  have hnorm : normalize cfg (front ++ mark ++ digits ++ back) = .digits (hexDigits w) := by
    rw [normalize_eq_digits_iff, fits_of_none hnone, hclean]
    exact ⟨length_hexDigits w, rfl, hhex⟩
  rw [frameText, hnorm]
  exact congrArg Framed.word (parseHex_hexDigits w)

end Sys2Proof.Machine
end

section
/-! The command-line host (44_host_presentation.md): printed numbers (R96), and what one interaction prints (R91 to
R98). -/

namespace Sys2Proof.Machine

/-! ## Printed numbers -/

theorem hexFormat_eq_digitList (least count v : Nat) :
    hexFormat least count v = '0' :: 'x' :: dropZeros (count - least) (digitList upperHexChar count v) := rfl

theorem upperHexChar_spec :
    ∀ d < 16, upperHexChar d ∈ uppercaseDigits ∧ uppercaseDigits.idxOf (upperHexChar d) = d := by
  decide

theorem isHexText_digitList {count v : Nat} (hv : v < 16 ^ count) :
    IsHexText ('0' :: 'x' :: digitList upperHexChar count v) count v := by
  refine ⟨_, rfl, length_digitList count v, fun c hc => ?_, foldl_digitList (fun d hd => (upperHexChar_spec d hd).2) hv⟩
  obtain ⟨d, hd, rfl⟩ := mem_digitList hc
  exact (upperHexChar_spec d hd).1

/-- Four digits hold a target up to `0xFFFF`, whose fifth digit is the zero that is dropped. -/
theorem isHexText_hexFormat_target (a : Addr) :
    IsHexText (hexFormat 4 5 a.toNat) (if a.toNat ≤ 0xFFFF then 4 else 5) a.toNat := by
  have ha := a.isLt
  rw [hexFormat_eq_digitList, digitList_succ_cons, show 5 - 4 = 0 + 1 from rfl, dropZeros, dropZeros]
  split
  next hzero =>
    rw [upperHexChar_eq_zero_iff] at hzero
    rw [if_pos (by omega)]
    exact isHexText_digitList (by omega)
  next hnonzero =>
    rw [upperHexChar_eq_zero_iff] at hnonzero
    rw [if_neg (by omega), ← digitList_succ_cons]
    exact isHexText_digitList (by omega)

/-- Settles O54: the printed digits are the base-16 digits, and one leading zero at most is dropped. -/
theorem printedNumbersHaveTheirWidths : Obligations.PrintedNumbersHaveTheirWidths :=
  ⟨isHexText_hexFormat_target, fun a => isHexText_digitList (count := 6) a.isLt⟩

/-! ## One interaction -/

theorem interaction_of_printed {cfg : Config} {line : List Byte} {items : List PrintItem} {code : Nat} {o : TxEnd}
    (ho : referenceTransaction (lineState cfg line) = o) (hitems : printed o = some items)
    (hcode : exitCode cfg o = some code) :
    interaction cfg line = some (.prompt :: items.map .print ++ [.exit code]) := by
  rw [interaction, step_eq_reference]
  simp only [State.endWith_out, ho, hitems, hcode]

theorem failureText_eq (k : ErrorKind) : failureText k = ['에', '러', ':', ' '] ++ Config.errorMessage k := rfl

/-- Settles O56: an error has one printed item and the parameter's exit code. -/
theorem hostPrintsOneLineOnFailure : Obligations.HostPrintsOneLineOnFailure := by
  intro cfg line k hk
  have ho : referenceTransaction (lineState cfg line) = .error k := referenceTransaction_of_error hk
  rw [← failureText_eq]
  exact interaction_of_printed ho rfl rfl

theorem binaryText_eq_map_bitChar (l : List Bool) : binaryText l = l.map bitChar := rfl

theorem bitText_eq_binaryText {w : Nat} (v : BitVec w) :
    bitText v = binaryText ((List.range w).map fun k => v.getLsbD (w - 1 - k)) := by
  rw [binaryText_eq_map_bitChar, List.map_map]
  rfl

theorem printedAddressing_eq_spelling (m : AddressingMode) : printedAddressing m = AddressingMode.spelling m := by
  cases m <;> rfl

theorem printedRelative_eq_spelling (m : RelativeMode) : printedRelative m = RelativeMode.spelling m := by
  cases m <;> rfl

theorem printedFormat_eq (f : Format) : printedFormat f = ([Format.digit f], tailLabel f) := by
  cases f <;> rfl

theorem printedTail_eq_tailText (t : Tail) : printedTail t = tailText t := by
  cases t with
  | disp d => exact (bitText_eq_binaryText d).symm
  | addr a => exact (bitText_eq_binaryText a).symm

/-- The seventh item (R93). -/
def registerAItem : Option RegA → List PrintItem
  | none => []
  | some a => [.registerA (hexFormat 6 6 a.toNat)]

theorem successItems_eq (r : DecodedInstruction) :
    successItems r =
      [.binary (binaryText r.word.bits), .opcode (bitText r.opcodeBits), nixbpeItem r.toDecodedFields,
        .description (descriptionText r.toDecodedFields), .tail (tailLabel r.format) (tailText r.tailBits),
        .target (hexFormat 4 5 r.targetAddress.toNat)] ++ registerAItem r.registerAValue := by
  unfold successItems
  cases r.registerAValue <;> rfl

/-- Settles O55: the items are those of `successItems`, whose texts are the printed spellings. -/
theorem hostPrintsTheResultInOrder : Obligations.HostPrintsTheResultInOrder := by
  intro cfg line w r hframe hr
  have ho : referenceTransaction (lineState cfg line) = .complete r :=
    (referenceTransaction_of_word (s := lineState cfg line) hframe).trans hr
  refine ⟨_, registerAItem r.registerAValue, rfl, ?_, ?_, ?_⟩
  · rw [interaction_of_printed ho rfl rfl]
    simp only [printedAddressing_eq_spelling, printedRelative_eq_spelling, printedFormat_eq, printedTail_eq_tailText,
      ← descriptionText_eq]
    rw [successItems_eq]
    rfl
  · intro h; rw [h]; rfl
  · intro a h; rw [h]; rfl

/-- Settles O57: one closed run of the host, the free exit code aside. -/
theorem scenarioOneIsPrinted : Obligations.ScenarioOneIsPrinted := by
  unfold Obligations.ScenarioOneIsPrinted
  rfl

end Sys2Proof.Machine
end
